-- ==== Sys2Proof/Word.lean ====
section
/-! DEFINITION. The words of DLPE (00_scope.md R7, R8): bytes, 16-bit words, byte sequences. -/

namespace Sys2Proof

/-- `u8`. -/
abbrev Byte := BitVec 8

/-- `u16`: sequence numbers, totals, checksums, command words. -/
abbrev Word := BitVec 16

/-- The width of TRIG, the widest host register (R31, R40). -/
abbrev TrigWord := BitVec 17

/-- A byte sequence, index 0 the byte sent or received first (R8). -/
abbrev Bytes := List Byte

end Sys2Proof
end

