-- ==== Sys2Proof/Config.lean ====
section
/-! DEFINITION. The constants of 00_scope.md R5 and the free lines of SRC (the other free
value, Config.freeEvent, needs Event and stands in Syntax.lean). -/

namespace Sys2Proof.Config

/-- SYNC_1. -/
abbrev sync1 : Byte := 0x75

/-- SYNC_2. -/
abbrev sync2 : Byte := 0x65

/-- TERM_BYTE. -/
abbrev termByte : Byte := 0x10

/-- TERM_LEN. -/
abbrev termLen : Nat := 4

/-- CRC_SEED. -/
abbrev crcSeed : Word := 0

/-- CRC_POLY_REFLECTED. -/
abbrev crcPoly : Word := 0xA001

/-- SEQ_FIRST. -/
abbrev seqFirst : Word := 1

/-- The largest LEN (LEN_WIDTH is 8). -/
abbrev lenMax : Nat := 255

/-- ACK_MIN. -/
abbrev ackMin : Nat := 6

/-- REPLY_MIN, 9 and not 10 (90_conflicts.md C1). -/
abbrev replyMin : Nat := 9

/-- FREE VALUE (log 9). The line SrcLine finds at line number `line` of the source of session number
`epoch` where the host has presented none (R39: SRC is an input). No body: nothing is known of it. -/
opaque freeLine (epoch line : Nat) : Bytes

end Sys2Proof.Config
end

