-- ==== Sys2Proof/Syntax.lean ====
section
/-! DEFINITION. The operations of DLPE, one constructor per row of spec/opcode_table.json, and the
accesses and events that bring them about (log 1, log 2). -/

namespace Sys2Proof

/-- MODE (R23). -/
inductive Mode where
  | upload
  | download
deriving DecidableEq, Repr

/-- COUNT_SRC (R26): where the packet count of a download comes from. -/
inductive CountSrc where
  | field
  | text
deriving DecidableEq, Repr

/-- The frame-level errors (R290, R301), in the order of classification of R173. -/
inductive FrameError where
  | syncNotFound
  | frameTooShort
  | checksumMismatch
  | sequenceMismatch
  | emptyPayload
deriving DecidableEq, Repr

/-- The fatal reasons (R290, R33). -/
inductive FatalReason where
  | ioError
  | protocolError
  | cancelled
deriving DecidableEq, Repr

/-- The operations of DLPE. Each constructor's docstring names its row and its rule. -/
inductive Instr where
  /-- F_REQ4, R96: the 4-byte request frame. -/
  | fReq4 (seq : Word)
  /-- F_REQ6, R97: the 6-byte request frame; its trailer is the checksum of the other bytes. -/
  | fReq6 (seq : Word)
  /-- F_ACK, R98: the acknowledgement frame, device to host. -/
  | fAck (seq : Word)
  /-- F_REPLY, R99: the reply frame, device to host; LEN is the payload's length. -/
  | fReply (seq total : Word) (payload : Bytes)
  /-- F_UDATA, R100: the upload data frame. -/
  | fUdata (seq : Word) (payload : Bytes)
  /-- F_TERM, R101: the termination marker. -/
  | fTerm
  /-- F_TRIG_UL, R102: the upload trigger, one byte. -/
  | fTrigUl (a : Byte)
  /-- F_TRIG_DL, R102: the download trigger, one byte or two. -/
  | fTrigDl (a : Byte) (b : Option Byte)
  /-- NOP, R263. -/
  | nop
  /-- START_UL, R264. -/
  | startUl
  /-- START_DL, R265, with A_REQ_CRC and A_COUNT_SRC. -/
  | startDl (reqCrc : Bool) (countSrc : CountSrc)
  /-- CANCEL, R266. -/
  | cancel
  /-- ABORT_PROTO, R267. -/
  | abortProto
  /-- CLEAR, R268. -/
  | clear
  /-- CRC_CLR, R269. -/
  | crcClr
  /-- CMD_RESERVED, R271: every other command word. -/
  | cmdReserved (w : Word)
  /-- RDREG, R261. -/
  | rdreg (n : Nat)
  /-- WRREG, R262. -/
  | wrreg (n v : Nat)
  /-- WRREG_TOTAL, R274. -/
  | wrregTotal (v : Word)
  /-- WRREG_TRIG, R275. -/
  | wrregTrig (v : TrigWord)
  /-- CRC_PUSH, R270. -/
  | crcPush (b : Byte)
  /-- STATUS_LAYOUT, R41: the read of register 1. -/
  | statusLayout
  /-- UL_SEND, R202. -/
  | ulSend
  /-- UL_POLL, R203. -/
  | ulPoll
  /-- DL_REQ, R232. -/
  | dlReq
  /-- DL_POLL, R233. -/
  | dlPoll
  /-- UL_DONE, R204. -/
  | ulDone
  /-- DL_DONE, R234. -/
  | dlDone
  /-- UL_START, R201: the effect of an accepted START_UL. -/
  | ulStart
  /-- DL_START, R231: the effect of an accepted START_DL. -/
  | dlStart (reqCrc : Bool) (countSrc : CountSrc)
  /-- CRC_UPD, R132. -/
  | crcUpd (crc : Word) (b : Byte)
  /-- CRC16, R133. -/
  | crc16 (bs : Bytes)
  /-- CRC_HI, R134. -/
  | crcHi (bs : Bytes)
  /-- CRC_LO, R135. -/
  | crcLo (bs : Bytes)
  /-- ENC_TAIL, R150. -/
  | encTail (h : Bytes)
  /-- ENC_REQ, R151. -/
  | encReq (seq : Word) (v : Bool)
  /-- ENC_UDATA, R152. -/
  | encUdata (seq : Word) (p : Bytes)
  /-- ENC_TERM, R153. -/
  | encTerm
  /-- ENC_TRIG_UL, R154. -/
  | encTrigUl
  /-- ENC_TRIG_DL, R155. -/
  | encTrigDl
  /-- ENC_ACK, R156. -/
  | encAck (seq : Word)
  /-- ENC_REPLY, R157. -/
  | encReply (seq total : Word) (p : Bytes)
  /-- FIND_SYNC, R170. -/
  | findSync (buf : Bytes)
  /-- DEC_ACK, R171. -/
  | decAck (buf : Bytes) (seq : Word)
  /-- DEC_REPLY, R172. -/
  | decReply (buf : Bytes) (seq : Word)
  /-- prog, R272. -/
  | prog (seq total : Word)
  /-- RxArrive, R67. -/
  | rxArrive (b : Byte)
  /-- ChanWrite, R65. -/
  | chanWrite (bs : Bytes)
  /-- ChanDrain, R66. -/
  | chanDrain
  /-- SrcLine, R69. -/
  | srcLine (k : Word)
  /-- LogAppend, R70. -/
  | logAppend (p : Bytes)
  /-- CloseReq, R81. -/
  | closeReq
  /-- fail, R305. -/
  | fail (reason : FatalReason)
deriving DecidableEq, Repr

/-- A command word, taken apart (R106, R107, R271). -/
inductive Command where
  | nop
  | startUl
  | startDl (reqCrc : Bool) (countSrc : CountSrc)
  | cancel
  | abortProto
  | clear
  | crcClr
  | reserved (w : Word)
deriving DecidableEq, Repr

/-- What selects one operation: the bits, and the port they come through (log 2). -/
inductive Access where
  /-- The sequencer's turn: STATUS bits 3:0 select the step (STATE_DISPATCH rows). -/
  | dispatch (status : BitVec 4)
  /-- A host read of register number `n` (R109). -/
  | hostRead (n : Nat)
  /-- A host write of value `v` to register number `n` (R109). -/
  | hostWrite (n v : Nat)
  /-- One of the frames of R90 that travel host to device, put on the channel by the host (R80). The
  session kind tells apart formats that the bytes do not (R103). -/
  | hostSend (m : Mode) (bs : Bytes)
  /-- Any bytes put on the channel by the host (R80, U30). -/
  | hostRaw (bs : Bytes)
  /-- The host drains the channel (R80, U30). -/
  | hostDrain
  /-- One of the frames of R90 that travel device to host, arriving whole. -/
  | deviceSend (m : Mode) (bs : Bytes)
  /-- One byte arrives from the link (R67). -/
  | byteArrives (b : Byte)
  /-- One of the functions that write no state of R20 is evaluated (log 15). -/
  | evaluate (i : Instr)
deriving DecidableEq, Repr

/-- The answer of the channel to a write (R65): `err k` says that the first `k` bytes left. -/
inductive ChanAnswer where
  | ok
  | err (k : Nat)
deriving DecidableEq, Repr

/-- One scheduled event: which agent acts, with what the environment chooses (log 1). -/
inductive Event where
  /-- The sequencer takes the step its STATE enables, if there is one. -/
  | turn
  /-- An operation selected by an access. -/
  | access (a : Access)
  /-- The channel will answer the next writes so (R65). -/
  | channel (r : ChanAnswer)
  /-- The host makes the lines of SRC available (R39, R332). -/
  | present (lines : List Bytes)
  /-- Hardware reset (R330). -/
  | hwReset
deriving DecidableEq, Repr, Inhabited

/-- What the environment does when nothing is scheduled, over and over and without end (log 1). -/
inductive Standing where
  /-- Nothing: every further step is the sequencer's turn. -/
  | idle
  /-- These events, again each time they have all been taken; an empty list is as `idle`. -/
  | again (events : List Event)
  /-- Any events: event `k` of a sequence of which nothing is known comes next (`Config.freeEvent`). -/
  | free (k : Nat)
deriving DecidableEq, Repr

/-- FREE VALUE (log 1). Event number `k` of an environment that goes on for ever in a way of its own. No
body: nothing is known of it. -/
opaque Config.freeEvent (k : Nat) : Event

end Sys2Proof
end

