-- ==== Sys2Proof/Machine/Operands.lean ====
section
/-! DEFINITION. The operand forms: fields of frames (R61, R91 to R95), of the command word (R106), of
TRIG (R31), and the code numbers of R21, R23, R26 and R301. -/

namespace Sys2Proof.Machine

/-- Bits 15:8 of a 16-bit field, the byte sent first (R61). -/
def hiByte (w : Word) : Byte := w.extractLsb' 8 8

/-- Bits 7:0 of a 16-bit field, the byte sent second (R61). -/
def loByte (w : Word) : Byte := w.extractLsb' 0 8

/-- `hi * 256 + lo` (R61, R62). -/
def joinBytes (hi lo : Byte) : Word := BitVec.ofNat 16 (hi.toNat * 256 + lo.toNat)

/-- The LEN byte of a payload of at most 255 bytes (R94). -/
def lenByte (p : Bytes) : Byte := BitVec.ofNat 8 p.length

/-- `buf[i]` (R8); every use stands behind a test that the index exists. -/
def byteAt (buf : Bytes) (i : Nat) : Byte := buf.getD i 0

/-- `buf[i .. i+n)` (R8). -/
def slice (buf : Bytes) (i n : Nat) : Bytes := (buf.drop i).take n

/-- The 16-bit field at bytes `i`, `i+1` (R61). -/
def wordAt (buf : Bytes) (i : Nat) : Word := joinBytes (byteAt buf i) (byteAt buf (i + 1))

/-- The sync pair and the sequence number, bytes 0 to 3 of every frame (R91, R92). -/
def frameHead (seq : Word) : Bytes := [Config.sync1, Config.sync2, hiByte seq, loByte seq]

/-- TRIG.B0 (R31). -/
def trigB0 (t : TrigWord) : Byte := t.extractLsb' 0 8

/-- TRIG.B1 (R31). -/
def trigB1 (t : TrigWord) : Byte := t.extractLsb' 8 8

/-- TRIG.N2 (R31). -/
def trigN2 (t : TrigWord) : Bool := t.getLsbD 16

/-- A_COUNT_SRC, 0 FIELD and 1 TEXT (R106). -/
def countSrcOfBit (b : Bool) : CountSrc := if b then .text else .field

/-- The COUNT_SRC bit (R41). -/
def countSrcBit : CountSrc → Bool
  | .field => false
  | .text => true

/-- MODE 0 upload, 1 download (R23). -/
def modeOfBit (b : Bool) : Mode := if b then .download else .upload

/-- The MODE bit (R41). -/
def modeBit : Mode → Bool
  | .upload => false
  | .download => true

/-- The LASTERR number of a frame-level error (R301). -/
def errorCode : FrameError → BitVec 4
  | .syncNotFound => 1
  | .frameTooShort => 2
  | .checksumMismatch => 3
  | .sequenceMismatch => 4
  | .emptyPayload => 5

/-- LASTERR as read: 0 when there is no error (R32, R301). -/
def lastErrCode : Option FrameError → BitVec 4
  | none => 0
  | some e => errorCode e

/-- FAIL_REASON as read: 0 when there is none (R33, R301). -/
def failReasonCode : Option FatalReason → BitVec 2
  | none => 0
  | some .ioError => 1
  | some .protocolError => 2
  | some .cancelled => 3

end Sys2Proof.Machine
end

