-- ==== Sys2Proof/Machine/Frames.lean ====
section
/-! DEFINITION. The frame codec: the serializer (41_serializer.md) and the sync detector and
deserializer (42_deserializer.md), as functions on byte sequences. -/

namespace Sys2Proof.Machine

/-- ENC_TAIL (R150). -/
def encTail (h : Bytes) : Bytes := h ++ [crcHi h, crcLo h]

/-- ENC_REQ (R151). -/
def encReq (seq : Word) (v : Bool) : Bytes :=
  if v then encTail (frameHead seq) else frameHead seq

/-- ENC_UDATA (R152). -/
def encUdata (seq : Word) (p : Bytes) : Bytes := encTail (frameHead seq ++ [lenByte p] ++ p)

/-- ENC_TERM (R153). -/
def encTerm : Bytes := List.replicate Config.termLen Config.termByte

/-- ENC_TRIG_UL on the value of TRIG (R154). -/
def encTrigUl (t : TrigWord) : Bytes := [trigB0 t]

/-- ENC_TRIG_DL on the value of TRIG (R155). -/
def encTrigDl (t : TrigWord) : Bytes := if trigN2 t then [trigB0 t, trigB1 t] else [trigB0 t]

/-- ENC_ACK (R156). -/
def encAck (seq : Word) : Bytes := encTail (frameHead seq)

/-- ENC_REPLY (R157). -/
def encReply (seq total : Word) (p : Bytes) : Bytes :=
  encTail (frameHead seq ++ [hiByte total, loByte total, lenByte p] ++ p)

/-- FIND_SYNC (R170): the smallest index at which the sync pair stands. -/
def findSync : Bytes → Option Nat
  | [] => none
  | [_] => none
  | a :: b :: rest =>
    if a = Config.sync1 ∧ b = Config.sync2 then some 0 else (findSync (b :: rest)).map (· + 1)

/-- The result of DEC_ACK (R171, R176). -/
inductive AckResult where
  | ok
  | err (e : FrameError)
deriving DecidableEq, Repr

/-- The result of DEC_REPLY (R172, R176). -/
inductive ReplyResult where
  | ok (total : Word) (payload : Bytes)
  | err (e : FrameError)
deriving DecidableEq, Repr

/-- DEC_ACK from the first sync pair on (R171). -/
def decAckAt (f : Bytes) (seq : Word) : AckResult :=
  if f.length < Config.ackMin then .err .frameTooShort
  else if crc16 (slice f 0 4) ≠ wordAt f 4 then .err .checksumMismatch
  else if wordAt f 2 ≠ seq then .err .sequenceMismatch
  else .ok

/-- DEC_ACK (R171). -/
def decAck (buf : Bytes) (seq : Word) : AckResult :=
  match findSync buf with
  | none => .err .syncNotFound
  | some i => decAckAt (buf.drop i) seq

/-- DEC_REPLY from the first sync pair on (R172). -/
def decReplyAt (f : Bytes) (seq : Word) : ReplyResult :=
  let n := (byteAt f 6).toNat
  if f.length < Config.replyMin then .err .frameTooShort
  else if f.length < Config.replyMin + n then .err .frameTooShort
  else if crc16 (slice f 0 (7 + n)) ≠ wordAt f (7 + n) then .err .checksumMismatch
  else if wordAt f 2 ≠ seq then .err .sequenceMismatch
  else if n = 0 then .err .emptyPayload
  else .ok (wordAt f 4) (slice f 7 n)

/-- DEC_REPLY (R172). -/
def decReply (buf : Bytes) (seq : Word) : ReplyResult :=
  match findSync buf with
  | none => .err .syncNotFound
  | some i => decReplyAt (buf.drop i) seq

end Sys2Proof.Machine
end

