-- ==== Sys2Proof/WellFormed.lean ====
section
/-! DEFINITION. The checks on an operation's operands: the domains its row and rule give (log 13), and
for the two register rows RDREG and WRREG that no more specific row has the same access (log 2). -/

namespace Sys2Proof

/-- A payload that one LEN byte can count (R94). -/
def fitsLen (p : Bytes) : Bool := p.length ≤ Config.lenMax

/-- R271: OP 7 to 15, or a bit of 15:6 set, or bit 4 or 5 set with an OP other than 2. -/
def isReservedWord (w : Word) : Bool :=
  let op := (w.extractLsb' 0 4).toNat
  7 ≤ op || w.extractLsb' 6 10 != 0 || ((w.getLsbD 4 || w.getLsbD 5) && op != 2)

/-- The access (n, v) that no row but WRREG has: not a command word, nor a value that fits TOTAL,
TRIG or CRC_DATA (R109, R262). -/
def isPlainWrite (n v : Nat) : Bool :=
  match n with
  | 0 => 2 ^ 16 ≤ v
  | 3 => 2 ^ 16 ≤ v
  | 6 => 2 ^ 17 ≤ v
  | 8 => 2 ^ 8 ≤ v
  | _ => true

/-- The operands lie in the domain the row gives. -/
def Instr.wellFormed : Instr → Bool
  | .fReq4 _ => true
  | .fReq6 _ => true
  | .fAck _ => true
  | .fReply _ _ p => fitsLen p
  | .fUdata _ p => fitsLen p
  | .fTerm => true
  | .fTrigUl _ => true
  | .fTrigDl _ _ => true
  | .nop => true
  | .startUl => true
  | .startDl _ _ => true
  | .cancel => true
  | .abortProto => true
  | .clear => true
  | .crcClr => true
  | .cmdReserved w => isReservedWord w
  | .rdreg n => n != 1
  | .wrreg n v => isPlainWrite n v
  | .wrregTotal _ => true
  | .wrregTrig _ => true
  | .crcPush _ => true
  | .statusLayout => true
  | .ulSend => true
  | .ulPoll => true
  | .dlReq => true
  | .dlPoll => true
  | .ulDone => true
  | .dlDone => true
  | .ulStart => true
  | .dlStart _ _ => true
  | .crcUpd _ _ => true
  | .crc16 _ => true
  | .crcHi _ => true
  | .crcLo _ => true
  | .encTail _ => true
  | .encReq seq _ => seq != 0
  | .encUdata seq p => seq != 0 && fitsLen p
  | .encTerm => true
  | .encTrigUl => true
  | .encTrigDl => true
  | .encAck _ => true
  | .encReply _ _ p => fitsLen p
  | .findSync _ => true
  | .decAck _ _ => true
  | .decReply _ _ => true
  | .prog _ _ => true
  | .rxArrive _ => true
  | .chanWrite bs => !bs.isEmpty
  | .chanDrain => true
  | .srcLine k => k != 0
  | .logAppend p => !p.isEmpty && fitsLen p
  | .closeReq => true
  | .fail _ => true

end Sys2Proof
end

