-- ==== Sys2Proof/Decode.lean ====
section
/-! DEFINITION. From the bits of an access to the operation they select, and back (30_encoding.md; for
STATE_DISPATCH rows the match and mask on STATUS of spec/opcode_table.json; log 2). -/

namespace Sys2Proof

open Sys2Proof.Machine

/-- Why an access selects no operation. -/
inductive DecodeError where
  /-- STATE is IDLE, TERMINATED or FAILED: no sequencer step is enabled (R200, R230). -/
  | noStepEnabled
  /-- The bytes do not open with the sync pair (R91) and are no raw format of R90. -/
  | notAFrame
  /-- The bytes are not as many as the format and its LEN say (R90, R103). -/
  | badLength
  /-- The trailer is not the checksum of the bytes before it (R95). -/
  | badChecksum
  /-- The row is selected by no access of this kind. -/
  | notSelectable
deriving DecidableEq, Repr

/-- What decoding answers. -/
inductive Decoded where
  | ok (i : Instr)
  | err (e : DecodeError)
deriving DecidableEq, Repr

/-- The operation, if there is one. -/
def Decoded.toOption : Decoded → Option Instr
  | .ok i => some i
  | .err _ => none

/-! ### Command words (R106, R107, R271) -/

/-- The command a 16-bit word written to CMD stands for. -/
def commandOf (w : Word) : Command :=
  if w.extractLsb' 6 10 ≠ 0 then .reserved w
  else if w.extractLsb' 0 4 = 2 then .startDl (w.getLsbD 4) (countSrcOfBit (w.getLsbD 5))
  else if w.getLsbD 4 || w.getLsbD 5 then .reserved w
  else match (w.extractLsb' 0 4).toNat with
    | 0 => .nop
    | 1 => .startUl
    | 3 => .cancel
    | 4 => .abortProto
    | 5 => .clear
    | 6 => .crcClr
    | _ => .reserved w

/-- The word of a command (R107). -/
def commandWord : Command → Word
  | .nop => 0x0000
  | .startUl => 0x0001
  | .startDl q c => 0x0002 ||| (if q then 0x0010 else 0) ||| (if countSrcBit c then 0x0020 else 0)
  | .cancel => 0x0003
  | .abortProto => 0x0004
  | .clear => 0x0005
  | .crcClr => 0x0006
  | .reserved w => w

/-- The row of a command. -/
def instrOfCommand : Command → Instr
  | .nop => .nop
  | .startUl => .startUl
  | .startDl q c => .startDl q c
  | .cancel => .cancel
  | .abortProto => .abortProto
  | .clear => .clear
  | .crcClr => .crcClr
  | .reserved w => .cmdReserved w

/-! ### Register accesses (R109, R110) -/

/-- A read: register 1 is the row STATUS_LAYOUT, every other number RDREG. -/
def decodeRead (n : Nat) : Instr := if n = 1 then .statusLayout else .rdreg n

/-- A write: the most specific row that has the access, else WRREG (log 2). -/
def decodeWrite (n v : Nat) : Instr :=
  if isPlainWrite n v then .wrreg n v
  else match n with
    | 0 => instrOfCommand (commandOf (BitVec.ofNat 16 v))
    | 3 => .wrregTotal (BitVec.ofNat 16 v)
    | 6 => .wrregTrig (BitVec.ofNat 17 v)
    | _ => .crcPush (BitVec.ofNat 8 v)

/-! ### The sequencer's turn -/

/-- STATUS bits 3:0 against the match and mask of the STATE_DISPATCH rows. -/
def decodeDispatch (st : BitVec 4) : Decoded :=
  if st &&& 0x7 = 0x1 then .ok .ulSend
  else if st &&& 0x7 = 0x2 then .ok .ulPoll
  else if st &&& 0x7 = 0x3 then .ok .dlReq
  else if st &&& 0x7 = 0x4 then .ok .dlPoll
  else if st = 0x5 then .ok .ulDone
  else if st = 0xD then .ok .dlDone
  else .err .noStepEnabled

/-! ### Wire formats (R90 to R105) -/

/-- Bytes 0 and 1 are the sync pair (R91). -/
def opensWithSync (bs : Bytes) : Bool :=
  bs.take 2 == [Config.sync1, Config.sync2]

/-- The last two bytes are the checksum of those before them (R95). -/
def trailerRight (bs : Bytes) : Bool :=
  crc16 (bs.take (bs.length - 2)) == wordAt bs (bs.length - 2)

/-- A sync-marked frame of `len` bytes with a trailer, or why it is none. -/
def checkedFrame (bs : Bytes) (len : Nat) (i : Instr) : Decoded :=
  if !opensWithSync bs then .err .notAFrame
  else if bs.length ≠ len then .err .badLength
  else if !trailerRight bs then .err .badChecksum
  else .ok i

/-- F_REQ4 and F_REQ6, told apart by length (R96, R97). -/
def decodeRequest (bs : Bytes) : Decoded :=
  if opensWithSync bs && bs.length == 4 then .ok (.fReq4 (wordAt bs 2))
  else checkedFrame bs 6 (.fReq6 (wordAt bs 2))

/-- F_UDATA (R100). -/
def decodeUdata (bs : Bytes) : Decoded :=
  let n := (byteAt bs 4).toNat
  checkedFrame bs (7 + n) (.fUdata (wordAt bs 2) (slice bs 5 n))

/-- F_REPLY (R99). -/
def decodeReplyFrame (bs : Bytes) : Decoded :=
  let n := (byteAt bs 6).toNat
  checkedFrame bs (9 + n) (.fReply (wordAt bs 2) (wordAt bs 4) (slice bs 7 n))

/-- The formats that travel host to device in a session of kind `m` (R90, R103). -/
def decodeHostSend (m : Mode) (bs : Bytes) : Decoded :=
  match m, bs with
  | .upload, [a] => .ok (.fTrigUl a)
  | .download, [a] => .ok (.fTrigDl a none)
  | .download, [a, b] => .ok (.fTrigDl a (some b))
  | .upload, bs => if bs = encTerm then .ok .fTerm else decodeUdata bs
  | .download, bs => if bs = encTerm then .ok .fTerm else decodeRequest bs

/-- The formats that travel device to host in a session of kind `m` (R103). -/
def decodeDeviceSend (m : Mode) (bs : Bytes) : Decoded :=
  match m with
  | .upload => checkedFrame bs 6 (.fAck (wordAt bs 2))
  | .download => decodeReplyFrame bs

/-! ### The rows that no bits select -/

/-- The rows that only compute a value: those of 40_crc.md to 42_deserializer.md, prog, and the read
of SRC (log 15). -/
def isFunctionRow : Instr → Bool
  | .crcUpd _ _ | .crc16 _ | .crcHi _ | .crcLo _ => true
  | .encTail _ | .encReq _ _ | .encUdata _ _ | .encTerm | .encTrigUl | .encTrigDl => true
  | .encAck _ | .encReply _ _ _ => true
  | .findSync _ | .decAck _ _ | .decReply _ _ => true
  | .prog _ _ | .srcLine _ => true
  | _ => false

/-- The operation an access selects. Total: what selects none is rejected by name. -/
def decode : Access → Decoded
  | .dispatch st => decodeDispatch st
  | .hostRead n => .ok (decodeRead n)
  | .hostWrite n v => .ok (decodeWrite n v)
  | .hostSend m bs => decodeHostSend m bs
  | .hostRaw bs => .ok (.chanWrite bs)
  | .hostDrain => .ok .chanDrain
  | .deviceSend m bs => decodeDeviceSend m bs
  | .byteArrives b => .ok (.rxArrive b)
  | .evaluate i => if isFunctionRow i then .ok i else .err .notSelectable

/-! ### The encoder -/

/-- The access of an operation, from the same tables. None for the five INTERNAL rows that only take
place inside another operation (log 14). -/
def encode : Instr → Option Access
  | .fReq4 seq => some (.hostSend .download (frameHead seq))
  | .fReq6 seq => some (.hostSend .download (encTail (frameHead seq)))
  | .fAck seq => some (.deviceSend .upload (encTail (frameHead seq)))
  | .fReply seq total p =>
    some (.deviceSend .download
      (encTail (frameHead seq ++ [hiByte total, loByte total, lenByte p] ++ p)))
  | .fUdata seq p => some (.hostSend .upload (encTail (frameHead seq ++ [lenByte p] ++ p)))
  | .fTerm => some (.hostSend .upload [0x10, 0x10, 0x10, 0x10])
  | .fTrigUl a => some (.hostSend .upload [a])
  | .fTrigDl a none => some (.hostSend .download [a])
  | .fTrigDl a (some b) => some (.hostSend .download [a, b])
  | .nop => some (.hostWrite 0 (commandWord .nop).toNat)
  | .startUl => some (.hostWrite 0 (commandWord .startUl).toNat)
  | .startDl q c => some (.hostWrite 0 (commandWord (.startDl q c)).toNat)
  | .cancel => some (.hostWrite 0 (commandWord .cancel).toNat)
  | .abortProto => some (.hostWrite 0 (commandWord .abortProto).toNat)
  | .clear => some (.hostWrite 0 (commandWord .clear).toNat)
  | .crcClr => some (.hostWrite 0 (commandWord .crcClr).toNat)
  | .cmdReserved w => some (.hostWrite 0 w.toNat)
  | .rdreg n => some (.hostRead n)
  | .wrreg n v => some (.hostWrite n v)
  | .wrregTotal v => some (.hostWrite 3 v.toNat)
  | .wrregTrig v => some (.hostWrite 6 v.toNat)
  | .crcPush b => some (.hostWrite 8 b.toNat)
  | .statusLayout => some (.hostRead 1)
  | .ulSend => some (.dispatch 0x1)
  | .ulPoll => some (.dispatch 0x2)
  | .dlReq => some (.dispatch 0x3)
  | .dlPoll => some (.dispatch 0x4)
  | .ulDone => some (.dispatch 0x5)
  | .dlDone => some (.dispatch 0xD)
  | .ulStart => none
  | .dlStart _ _ => none
  | .crcUpd crc b => some (.evaluate (.crcUpd crc b))
  | .crc16 bs => some (.evaluate (.crc16 bs))
  | .crcHi bs => some (.evaluate (.crcHi bs))
  | .crcLo bs => some (.evaluate (.crcLo bs))
  | .encTail h => some (.evaluate (.encTail h))
  | .encReq seq v => some (.evaluate (.encReq seq v))
  | .encUdata seq p => some (.evaluate (.encUdata seq p))
  | .encTerm => some (.evaluate .encTerm)
  | .encTrigUl => some (.evaluate .encTrigUl)
  | .encTrigDl => some (.evaluate .encTrigDl)
  | .encAck seq => some (.evaluate (.encAck seq))
  | .encReply seq total p => some (.evaluate (.encReply seq total p))
  | .findSync buf => some (.evaluate (.findSync buf))
  | .decAck buf seq => some (.evaluate (.decAck buf seq))
  | .decReply buf seq => some (.evaluate (.decReply buf seq))
  | .prog seq total => some (.evaluate (.prog seq total))
  | .rxArrive b => some (.byteArrives b)
  | .chanWrite bs => some (.hostRaw bs)
  | .chanDrain => some .hostDrain
  | .srcLine k => some (.evaluate (.srcLine k))
  | .logAppend _ => none
  | .closeReq => none
  | .fail _ => none

/-! ### The opcode table's words

spec/opcode_table.json numbers the bits of each row as one number whose most significant byte is the
frame's first, and gives no port. The port is taken from the row's width (log 2). -/

/-- `w` as `n` bytes, the most significant first. -/
def bigEndian (w : Nat) : Nat → Bytes
  | 0 => []
  | n + 1 => BitVec.ofNat 8 (w / 256 ^ n) :: bigEndian w n

/-- The access a word of `nbits` bits of the table stands for: 8 bits are STATUS bits 3:0 where a
STATE_DISPATCH row matches and else a trigger byte, 16 a command word, 24 a value of TRIG, and every
other width a frame, host to device where one of those formats has it and else device to host. -/
def tableAccess (nbits w : Nat) : Access :=
  if nbits = 8 then
    match decodeDispatch (BitVec.ofNat 4 w) with
    | .ok _ => .dispatch (BitVec.ofNat 4 w)
    | .err _ => .hostSend .upload [BitVec.ofNat 8 w]
  else if nbits = 16 then .hostWrite 0 w
  else if nbits = 24 then .hostWrite 6 w
  else
    let bs := bigEndian w (nbits / 8)
    match decodeHostSend .download bs, decodeHostSend .upload bs with
    | .ok _, _ => .hostSend .download bs
    | .err _, .ok _ => .hostSend .upload bs
    | .err _, .err _ => .deviceSend .download bs

/-- The operation the decoder reads from a word of the opcode table. -/
def decodeTableWord (nbits w : Nat) : Option Instr := (decode (tableAccess nbits w)).toOption

end Sys2Proof
end

