-- ==== Sys2Proof/Machine/State.lean ====
section
/-! DEFINITION. The state of DLPE (10_state.md R20), the two reason types, and the state after reset
(R44). -/

namespace Sys2Proof.Machine

/-- STATE (R21). The parameter `(seq)` of the source's state names is the register SEQ. -/
inductive Phase where
  | idle
  | sending
  | awaitingAck
  | requesting
  | awaitingReply
  | done
  | terminated
  | failed
deriving DecidableEq, Repr

/-- An event of OUT (R37): a completed write, a failed write with the bytes that left, a close request. -/
inductive OutEvent where
  | tx (bs : Bytes)
  | txFail (bs : Bytes)
  | close
deriving DecidableEq, Repr

/-- What the last operation that returns a value returned (log 4). -/
inductive Ret where
  /-- Nothing has been returned yet. -/
  | nothing
  /-- RDREG (R261): a register, as wide as the widest. -/
  | reg (v : BitVec 17)
  /-- CRC_UPD, CRC16. -/
  | word (w : Word)
  /-- CRC_HI, CRC_LO. -/
  | byte (b : Byte)
  /-- The serializer's operations, ChanDrain, SrcLine. -/
  | bytes (bs : Bytes)
  /-- FIND_SYNC. -/
  | index (i : Option Nat)
  /-- DEC_ACK. -/
  | ack (r : AckResult)
  /-- DEC_REPLY. -/
  | reply (r : ReplyResult)
  /-- prog. -/
  | percent (p : BitVec 7)
  /-- ChanWrite: ok or err. -/
  | written (ok : Bool)
deriving DecidableEq, Repr

/-- TXP as (index, byte) cells; what an unlisted index reads as is `Memory.unlisted` of Ops.lean. -/
abbrev Memory := List Host.Cell

/-- The whole state. The names in capitals are those of R20; the last seven fields are
the environment's inputs and the model's own (INVENTORY.md, State). -/
structure State where
  /-- STATE (R21). -/
  phase : Phase
  /-- MODE (R23). -/
  mode : Mode
  /-- REQ_CRC (R26). -/
  reqCrc : Bool
  /-- COUNT_SRC (R26). -/
  countSrc : CountSrc
  /-- TOTAL_VALID (R25). -/
  totalValid : Bool
  /-- CANCEL_PEND (R29). -/
  cancelPend : Bool
  /-- CMD_ERR (R30). -/
  cmdErr : Bool
  /-- FAIL_REASON (R33). -/
  failReason : Option FatalReason
  /-- SEQ (R24). -/
  seq : Word
  /-- TOTAL (R25). -/
  total : Word
  /-- PROGRESS (R27). -/
  progress : BitVec 7
  /-- LASTERR (R32). -/
  lastErr : Option FrameError
  /-- TRIG (R31). -/
  trig : TrigWord
  /-- CRCACC (R28). -/
  crcAcc : Word
  /-- TXLEN (R35). -/
  txLen : Byte
  /-- TXP (R35). -/
  txp : Memory
  /-- LINE_VALID (R35). -/
  lineValid : Bool
  /-- RXB (R36). -/
  rxb : Bytes
  /-- OUT (R37). -/
  out : List OutEvent
  /-- LOG (R38). -/
  log : List Bytes
  /-- SRC (R39): line `k` is element `k - 1`; what no element gives is free (log 9). -/
  src : List Bytes
  /-- Model's own: which source the free lines of SRC belong to (log 9). -/
  srcEpoch : Nat
  /-- RXB_CAP (R6, R67): none is unbounded (log 6). -/
  rxbCap : Option Nat
  /-- The channel's answer to the next write (R65, log 5). -/
  chan : ChanAnswer
  /-- Model's own: the events to come (log 1). -/
  agenda : List Event
  /-- Model's own: what the environment does when `agenda` is empty (log 1). -/
  standing : Standing
  /-- Model's own: the value last returned (log 4). -/
  ret : Ret
deriving DecidableEq, Repr

/-- Where the machine stops with a fault. -/
inductive Fault where
  /-- Raised by `step` for a `present` event that holds a line over 255 bytes: R69 says such
  a line cannot be presented. Safe: no event of the spec is lost (log 10). -/
  | lineTooLong
deriving DecidableEq, Repr

/-- Where the machine refuses to go on. -/
inductive Refusal where
  /-- For an arm of `exec` without a meaning. No arm raises it. Safe. -/
  | notModelled (mnemonic : String)
  /-- Raised by `step` for an access whose bits are no row's encoding at that port. Safe: the
  spec gives such bytes no operation (log 2). -/
  | undecodable (e : DecodeError)
  /-- Raised by `step` for an operation whose operands lie outside the domain its row gives. Safe: the
  spec gives the operation no meaning there (log 13). -/
  | illFormed (i : Instr)
deriving DecidableEq, Repr

/-- What one operation answers. -/
abbrev Result := Host.Outcome State Fault Refusal

/-- The machine right after hardware reset (R44, R331). RXB, TXP, SRC, RXB_CAP and the channel's answer
have no reset value in the spec: logs 5 to 9 name the ones written here. -/
def State.reset : State where
  phase := .idle
  mode := .upload
  reqCrc := false
  countSrc := .field
  totalValid := false
  cancelPend := false
  cmdErr := false
  failReason := none
  seq := 0
  total := 0
  progress := 0
  lastErr := none
  trig := 0
  crcAcc := Config.crcSeed
  txLen := 0
  txp := []
  lineValid := false
  rxb := []
  out := []
  log := []
  src := []
  srcEpoch := 0
  rxbCap := none
  chan := .ok
  agenda := []
  standing := .idle
  ret := .nothing

end Sys2Proof.Machine
end

