-- ==== Sys2Proof/Machine/Flags.lean ====
section
/-! DEFINITION. Everything computed into a flag or a status field: the STATUS word (R41), the session
tests on STATE, the termination test (R237) and the progress function (R272). -/

namespace Sys2Proof.Machine

/-- The number of a state (R21). -/
def phaseCode : Phase → BitVec 3
  | .idle => 0
  | .sending => 1
  | .awaitingAck => 2
  | .requesting => 3
  | .awaitingReply => 4
  | .done => 5
  | .terminated => 6
  | .failed => 7

/-- The state of a number (R21). -/
def phaseOfCode (c : BitVec 3) : Phase :=
  match c.toNat with
  | 0 => .idle
  | 1 => .sending
  | 2 => .awaitingAck
  | 3 => .requesting
  | 4 => .awaitingReply
  | 5 => .done
  | 6 => .terminated
  | _ => .failed

/-- STATE in 1 to 5: a session is active (R29, R266, R268). -/
def phaseActive : Phase → Bool
  | .idle | .terminated | .failed => false
  | .sending | .awaitingAck | .requesting | .awaitingReply | .done => true

/-- STATUS (R41), bits 15:11 zero. -/
def statusWord (s : State) : Word :=
  (0 : BitVec 5) ++ failReasonCode s.failReason ++ BitVec.ofBool s.cmdErr ++ BitVec.ofBool s.cancelPend ++
    BitVec.ofBool s.totalValid ++ BitVec.ofBool (countSrcBit s.countSrc) ++ BitVec.ofBool s.reqCrc ++
    BitVec.ofBool (modeBit s.mode) ++ phaseCode s.phase

/-- STATUS bits 3:0, what selects the sequencer's step. -/
def dispatchBits (s : State) : BitVec 4 := (statusWord s).extractLsb' 0 4

/-- `zext_17(SEQ) + 1 > zext_17(TOTAL)` (R203, R233, R237). -/
def lastPacket (seq total : Word) : Bool := (total.setWidth 17) < (seq.setWidth 17) + 1

/-- The value of prog (R272) as a number. -/
def progNat (seq total : Word) : Nat :=
  if total = 0 then 100
  else
    let q := (100 * seq.toNat) / total.toNat
    if 100 < q then 100 else q

/-- prog (R272), as wide as PROGRESS. -/
def prog (seq total : Word) : BitVec 7 := BitVec.ofNat 7 (progNat seq total)

end Sys2Proof.Machine
end

