-- ==== Sys2Proof/Machine/Ops.lean ====
section
/-! DEFINITION. The named operations over the state: the cells of TXP, the primitives of R9, the three
error entries (refusal R300, frame-level R306, fatal R305) and the two resets (R330). -/

namespace Sys2Proof.Machine

/-! ### TXP (R35, R60) -/

/-- What an index of TXP that holds no cell reads as: R44 leaves the contents unspecified (log 8). -/
def Memory.unlisted : Byte := 0

/-- The size of TXP (R60). -/
abbrev Memory.size : Nat := 255

/-- The byte at index `a`. -/
def Memory.read (m : Memory) (a : Nat) : Byte :=
  match m with
  | [] => Memory.unlisted
  | c :: rest => if c.1 = a then c.2 else Memory.read rest a

/-- The cell (`a`, `b`) before the cells `m`, unless `b` is what an unlisted index reads as. -/
def Memory.cons (a : Nat) (b : Byte) (m : Memory) : Memory :=
  if b = Memory.unlisted then m else (a, b) :: m

/-- Byte `b` at index `a`, in canonical form. -/
def Memory.write (m : Memory) (a : Nat) (b : Byte) : Memory :=
  match m with
  | [] => Memory.cons a b []
  | c :: rest =>
    if a < c.1 then Memory.cons a b (c :: rest)
    else if a = c.1 then Memory.cons a b rest
    else c :: Memory.write rest a b

/-- `TXP[a .. a+len(bs)) <- bs`. -/
def Memory.writeAll (m : Memory) (a : Nat) (bs : Bytes) : Memory :=
  match bs with
  | [] => m
  | b :: rest => Memory.writeAll (Memory.write m a b) (a + 1) rest

/-- `TXP[a .. a+n)`. -/
def Memory.readAll (m : Memory) (a : Nat) : Nat → Bytes
  | 0 => []
  | n + 1 => Memory.read m a :: Memory.readAll m (a + 1) n

/-- The canonical form from index `lo` on: addresses strictly rising and inside TXP, no cell that an
unlisted index reads as. -/
def Memory.wfFrom (lo : Nat) : Memory → Bool
  | [] => true
  | c :: rest => decide (lo ≤ c.1) && decide (c.1 < Memory.size) && decide (c.2 ≠ Memory.unlisted) &&
      Memory.wfFrom (c.1 + 1) rest

/-- The canonical form of TXP. -/
def Memory.wf (m : Memory) : Bool := Memory.wfFrom 0 m

/-! ### The value an operation returns (log 4) -/

/-- The operation returns `r`. -/
def setRet (r : Ret) (s : State) : State := { s with ret := r }

/-! ### Refusal, frame-level and fatal errors (60_exceptions.md) -/

/-- `refuse` (R300). -/
def refuse (s : State) : State := { s with cmdErr := true }

/-- `fail(reason)`, the one entry to FAILED (R305). -/
def fail (reason : FatalReason) (s : State) : State :=
  { s with failReason := some reason, phase := .failed }

/-- Recovery of a frame-level error (R306): LASTERR, and back to the state `again` with SEQ as it is. -/
def retry (e : FrameError) (again : Phase) (s : State) : State :=
  { s with lastErr := some e, phase := again }

/-! ### The channel (R65 to R67, R81) -/

/-- The event a write of `bs` leaves in OUT (R65). -/
def writeEvent (r : ChanAnswer) (bs : Bytes) : OutEvent :=
  match r with
  | .ok => .tx bs
  | .err k => .txFail (bs.take k)

/-- Whether the answer is ok. -/
def ChanAnswer.isOk : ChanAnswer → Bool
  | .ok => true
  | .err _ => false

/-- OUT gains one event (R37). -/
def emit (e : OutEvent) (s : State) : State := { s with out := s.out ++ [e] }

/-- ChanWrite (R65): the channel's answer, and the state with the event in OUT. -/
def chanWrite (bs : Bytes) (s : State) : Bool × State :=
  (ChanAnswer.isOk s.chan, emit (writeEvent s.chan bs) s)

/-- A write whose `err` is fatal: `fail(IoError)`, else go on with `k` (R296). -/
def writeOrFail (bs : Bytes) (k : State → State) (s : State) : State :=
  match chanWrite bs s with
  | (true, s') => k s'
  | (false, s') => fail .ioError s'

/-- ChanDrain (R66): the bytes of RXB, and the state with RXB empty. -/
def chanDrain (s : State) : Bytes × State := (s.rxb, { s with rxb := [] })

/-- Whether a byte still fits in RXB (R67). -/
def rxbHasRoom (s : State) : Bool :=
  match s.rxbCap with
  | none => true
  | some c => s.rxb.length < c

/-- RxArrive (R67): the byte is lost when RXB is full. -/
def rxArrive (b : Byte) (s : State) : State :=
  if rxbHasRoom s then { s with rxb := s.rxb ++ [b] } else s

/-- Bytes arriving one after the other (R67). -/
def rxArriveAll (bs : Bytes) (s : State) : State := bs.foldl (fun t b => rxArrive b t) s

/-- CloseReq (R81). -/
def closeReq (s : State) : State := emit .close s

/-! ### Line source and line sink (R69, R70) -/

/-- `SRC(k)`, at most 255 bytes (R69). Lines 1 to TOTAL are those the host has presented; what stands
at a line that is not one of them is free (log 9). -/
def srcLine (k : Word) (s : State) : Bytes :=
  if 1 ≤ k.toNat ∧ k.toNat ≤ s.total.toNat then
    (s.src.getD (k.toNat - 1) (Config.freeLine s.srcEpoch k.toNat)).take Config.lenMax
  else (Config.freeLine s.srcEpoch k.toNat).take Config.lenMax

/-- LogAppend (R70). -/
def logAppend (p : Bytes) (s : State) : State := { s with log := s.log ++ [p] }

/-- The first half of UL_SEND (R202): line SEQ is fetched into TXP unless it is there already. -/
def fetchLine (s : State) : State :=
  if s.lineValid then s
  else
    let p := srcLine s.seq s
    { s with txLen := lenByte p, txp := Memory.writeAll s.txp 0 p, lineValid := true }

/-- `TXP[0 .. TXLEN)` (R202). -/
def txLine (s : State) : Bytes := Memory.readAll s.txp 0 s.txLen.toNat

/-! ### Resets (R330) -/

/-- Every session register at its reset value, the rest as it was: the effect of CLEAR (R268). -/
def clearSession (s : State) : State :=
  { s with
    phase := .idle, mode := .upload, reqCrc := false, countSrc := .field
    totalValid := false, cancelPend := false, cmdErr := false, failReason := none
    seq := 0, total := 0, progress := 0, lastErr := none
    txLen := 0, lineValid := false }

/-- Hardware reset (R330, R44): what R44 does not reset (RXB, SRC, the channel, what is scheduled, and
TXP, which it leaves unspecified) stays (log 12). -/
def hwReset (s : State) : State :=
  { clearSession s with trig := 0, crcAcc := Config.crcSeed, out := [], log := [] }

end Sys2Proof.Machine
end

