-- ==== Sys2Proof/Machine/Codec.lean ====
section
/-! DEFINITION. The pure operations of the checksum engine (40_crc.md), the serializer (41_serializer.md),
the deserializer (42_deserializer.md) and the progress function (R272): each returns its value (log 4)
and writes no state of R20 (R137, R176). -/

namespace Sys2Proof.Machine

/-- CRC_UPD (R132). -/
def execCrcUpd (crc : Word) (b : Byte) (s : State) : Result := .next (setRet (.word (crcUpd crc b)) s)

/-- CRC16 (R133). -/
def execCrc16 (bs : Bytes) (s : State) : Result := .next (setRet (.word (crc16 bs)) s)

/-- CRC_HI (R134). -/
def execCrcHi (bs : Bytes) (s : State) : Result := .next (setRet (.byte (crcHi bs)) s)

/-- CRC_LO (R135). -/
def execCrcLo (bs : Bytes) (s : State) : Result := .next (setRet (.byte (crcLo bs)) s)

/-- ENC_TAIL (R150). -/
def execEncTail (h : Bytes) (s : State) : Result := .next (setRet (.bytes (encTail h)) s)

/-- ENC_REQ (R151). -/
def execEncReq (seq : Word) (v : Bool) (s : State) : Result :=
  .next (setRet (.bytes (encReq seq v)) s)

/-- ENC_UDATA (R152). -/
def execEncUdata (seq : Word) (p : Bytes) (s : State) : Result :=
  .next (setRet (.bytes (encUdata seq p)) s)

/-- ENC_TERM (R153). -/
def execEncTerm (s : State) : Result := .next (setRet (.bytes encTerm) s)

/-- ENC_TRIG_UL (R154). -/
def execEncTrigUl (s : State) : Result := .next (setRet (.bytes (encTrigUl s.trig)) s)

/-- ENC_TRIG_DL (R155). -/
def execEncTrigDl (s : State) : Result := .next (setRet (.bytes (encTrigDl s.trig)) s)

/-- ENC_ACK (R156). -/
def execEncAck (seq : Word) (s : State) : Result := .next (setRet (.bytes (encAck seq)) s)

/-- ENC_REPLY (R157). -/
def execEncReply (seq total : Word) (p : Bytes) (s : State) : Result :=
  .next (setRet (.bytes (encReply seq total p)) s)

/-- FIND_SYNC (R170). -/
def execFindSync (buf : Bytes) (s : State) : Result := .next (setRet (.index (findSync buf)) s)

/-- DEC_ACK (R171). -/
def execDecAck (buf : Bytes) (seq : Word) (s : State) : Result :=
  .next (setRet (.ack (decAck buf seq)) s)

/-- DEC_REPLY (R172). -/
def execDecReply (buf : Bytes) (seq : Word) (s : State) : Result :=
  .next (setRet (.reply (decReply buf seq)) s)

/-- prog (R272). -/
def execProg (seq total : Word) (s : State) : Result :=
  .next (setRet (.percent (prog seq total)) s)

end Sys2Proof.Machine
end

