-- ==== Sys2Proof/Machine/Download.lean ====
section
/-! DEFINITION. The download sequencer (44_download.md). A step whose STATE is not the one that enables it
is not taken: the state stays (R230, log 13). -/

namespace Sys2Proof.Machine

/-- DL_START (R231), up to the test of the count source: the registers a new download session sets. -/
def openDownload (q : Bool) (c : CountSrc) (s : State) : State :=
  { s with
    mode := .download, reqCrc := q, countSrc := c
    cancelPend := false, failReason := none, lastErr := none
    seq := Config.seqFirst, progress := 0, log := [] }

/-- DL_START (R231). -/
def dlStart (q : Bool) (c : CountSrc) (s : State) : State :=
  match c with
  | .field =>
    writeOrFail (encTrigDl s.trig) (fun t => { t with phase := .requesting })
      { openDownload q c s with total := 0, totalValid := false }
  | .text => { openDownload q c s with totalValid := true, phase := .requesting }

/-- DL_REQ (R232). -/
def dlReq (s : State) : State :=
  if s.cancelPend then fail .cancelled (closeReq s)
  else writeOrFail (encReq s.seq s.reqCrc) (fun t => { t with phase := .awaitingReply }) s

/-- Learning the total (R235). -/
def learnTotal (total : Word) (s : State) : State :=
  match s.countSrc with
  | .field => { s with total := total, totalValid := true }
  | .text => s

/-- The accepting branch of DL_POLL (R233), with the TOTAL just written. -/
def replyAccepted (total : Word) (payload : Bytes) (s : State) : State :=
  let t := logAppend payload (learnTotal total s)
  let u := { t with progress := prog t.seq t.total }
  if lastPacket t.seq t.total then { u with phase := .done }
  else { u with seq := t.seq + 1, phase := .requesting }

/-- DL_POLL (R233). -/
def dlPoll (s : State) : State :=
  match decReply (chanDrain s).1 s.seq with
  | .ok total payload => replyAccepted total payload (chanDrain s).2
  | .err e => retry e .requesting (chanDrain s).2

/-- DL_DONE (R234). -/
def dlDone (s : State) : State :=
  writeOrFail encTerm (fun t => { closeReq t with phase := .terminated }) s

/-- DL_START as an operation (R231). -/
def execDlStart (q : Bool) (c : CountSrc) (s : State) : Result := .next (dlStart q c s)

/-- DL_REQ as a step (R232). -/
def execDlReq (s : State) : Result := if s.phase = .requesting then .next (dlReq s) else .next s

/-- DL_POLL as a step (R233). -/
def execDlPoll (s : State) : Result := if s.phase = .awaitingReply then .next (dlPoll s) else .next s

/-- DL_DONE as a step (R234). -/
def execDlDone (s : State) : Result :=
  if s.phase = .done ∧ s.mode = .download then .next (dlDone s) else .next s

end Sys2Proof.Machine
end

