-- ==== Sys2Proof/Machine/Upload.lean ====
section
/-! DEFINITION. The upload sequencer (43_upload.md). A step whose STATE is not the one that enables it is
not taken: the state stays (R200, log 13). -/

namespace Sys2Proof.Machine

/-- UL_START (R201), STATE and OUT apart: the registers a new upload session sets. -/
def openUpload (s : State) : State :=
  { s with
    mode := .upload, reqCrc := false, countSrc := .field, totalValid := true
    cancelPend := false, failReason := none, lastErr := none
    seq := Config.seqFirst, progress := 0, lineValid := false
    srcEpoch := s.srcEpoch + 1 }

/-- UL_START (R201). -/
def ulStart (s : State) : State :=
  writeOrFail (encTrigUl s.trig) (fun t => { t with phase := .sending }) (openUpload s)

/-- UL_SEND (R202). -/
def ulSend (s : State) : State :=
  if s.cancelPend then fail .cancelled (closeReq s)
  else
    let t := fetchLine s
    writeOrFail (encUdata t.seq (txLine t)) (fun t => { t with phase := .awaitingAck }) t

/-- The accepting branch of UL_POLL (R203). -/
def ackAccepted (s : State) : State :=
  let t := { s with progress := prog s.seq s.total }
  if lastPacket s.seq s.total then { t with phase := .done }
  else { t with seq := s.seq + 1, lineValid := false, phase := .sending }

/-- UL_POLL (R203). -/
def ulPoll (s : State) : State :=
  match decAck (chanDrain s).1 s.seq with
  | .ok => ackAccepted (chanDrain s).2
  | .err e => retry e .sending (chanDrain s).2

/-- UL_DONE (R204). -/
def ulDone (s : State) : State :=
  writeOrFail encTerm (fun t => { (chanDrain t).2 with phase := .terminated }) s

/-- UL_START as an operation (R201). -/
def execUlStart (s : State) : Result := .next (ulStart s)

/-- UL_SEND as a step (R202). -/
def execUlSend (s : State) : Result := if s.phase = .sending then .next (ulSend s) else .next s

/-- UL_POLL as a step (R203). -/
def execUlPoll (s : State) : Result := if s.phase = .awaitingAck then .next (ulPoll s) else .next s

/-- UL_DONE as a step (R204). -/
def execUlDone (s : State) : Result :=
  if s.phase = .done ∧ s.mode = .upload then .next (ulDone s) else .next s

end Sys2Proof.Machine
end

