-- ==== Sys2Proof/Machine/HostPort.lean ====
section
/-! DEFINITION. The host interface: commands, register reads and register writes (45_host.md). -/

namespace Sys2Proof.Machine

/-! ### Commands (R263 to R271) -/

/-- START_UL (R264). -/
def cmdStartUl (s : State) : State :=
  if s.phase ≠ .idle then refuse s
  else if s.total = 0 then refuse s
  else ulStart s

/-- START_DL (R265). -/
def cmdStartDl (q : Bool) (c : CountSrc) (s : State) : State :=
  if s.phase ≠ .idle then refuse s
  else if c = .text ∧ s.total = 0 then refuse s
  else dlStart q c s

/-- CANCEL (R266). -/
def cmdCancel (s : State) : State := if phaseActive s.phase then { s with cancelPend := true } else s

/-- ABORT_PROTO (R267). -/
def cmdAbortProto (s : State) : State :=
  if s.phase ≠ .idle then refuse s else fail .protocolError s

/-- CLEAR (R268). -/
def cmdClear (s : State) : State := if phaseActive s.phase then refuse s else clearSession s

/-- CRC_CLR (R269). -/
def cmdCrcClr (s : State) : State :=
  if phaseActive s.phase then refuse s else { s with crcAcc := Config.crcSeed }

/-- The effect of a command word (R262, R271). -/
def runCommand (c : Command) (s : State) : State :=
  match c with
  | .nop => s
  | .startUl => cmdStartUl s
  | .startDl q c => cmdStartDl q c s
  | .cancel => cmdCancel s
  | .abortProto => cmdAbortProto s
  | .clear => cmdClear s
  | .crcClr => cmdCrcClr s
  | .reserved _ => refuse s

/-! ### Register writes (R262, R270, R274, R275) -/

/-- WRREG TOTAL (R274). -/
def writeTotal (v : Nat) (s : State) : State :=
  if 0xFFFF < v then refuse s
  else if s.phase = .idle then { s with total := BitVec.ofNat 16 v }
  else refuse s

/-- WRREG TRIG (R275). -/
def writeTrig (v : Nat) (s : State) : State :=
  if 0x1FFFF < v then refuse s
  else if s.phase = .idle then { s with trig := BitVec.ofNat 17 v }
  else refuse s

/-- WRREG CRC_DATA (R270). -/
def writeCrcData (v : Nat) (s : State) : State :=
  if 0xFF < v then refuse s
  else if phaseActive s.phase then refuse s
  else { s with crcAcc := crcUpd s.crcAcc (BitVec.ofNat 8 v) }

/-- WRREG CMD: the command of a 16-bit word; a wider value has bits above the register's width and is
refused (R110, R262, log 16). -/
def writeCmd (v : Nat) (s : State) : State :=
  if 0xFFFF < v then refuse s else runCommand (commandOf (BitVec.ofNat 16 v)) s

/-- WRREG (R262). -/
def writeReg (n v : Nat) (s : State) : State :=
  match n with
  | 0 => writeCmd v s
  | 3 => writeTotal v s
  | 6 => writeTrig v s
  | 8 => writeCrcData v s
  | _ => refuse s

/-! ### Register reads (R261) -/

/-- The value a read of register `n` returns (R261, R40). -/
def readReg (n : Nat) (s : State) : BitVec 17 :=
  match n with
  | 1 => (statusWord s).setWidth 17
  | 2 => s.seq.setWidth 17
  | 3 => s.total.setWidth 17
  | 4 => s.progress.setWidth 17
  | 5 => (lastErrCode s.lastErr).setWidth 17
  | 6 => s.trig
  | 7 => s.crcAcc.setWidth 17
  | _ => 0

/-! ### The rows -/

/-- NOP (R263). -/
def execNop (s : State) : Result := .next s

/-- START_UL (R264). -/
def execStartUl (s : State) : Result := .next (cmdStartUl s)

/-- START_DL (R265). -/
def execStartDl (q : Bool) (c : CountSrc) (s : State) : Result := .next (cmdStartDl q c s)

/-- CANCEL (R266). -/
def execCancel (s : State) : Result := .next (cmdCancel s)

/-- ABORT_PROTO (R267). -/
def execAbortProto (s : State) : Result := .next (cmdAbortProto s)

/-- CLEAR (R268). -/
def execClear (s : State) : Result := .next (cmdClear s)

/-- CRC_CLR (R269). -/
def execCrcClr (s : State) : Result := .next (cmdCrcClr s)

/-- CMD_RESERVED (R271): refused. -/
def execCmdReserved (w : Word) (s : State) : Result := .next (runCommand (.reserved w) s)

/-- RDREG (R261). -/
def execRdreg (n : Nat) (s : State) : Result := .next (setRet (.reg (readReg n s)) s)

/-- WRREG (R262). -/
def execWrreg (n v : Nat) (s : State) : Result := .next (writeReg n v s)

/-- WRREG_TOTAL (R274). -/
def execWrregTotal (v : Word) (s : State) : Result := .next (writeTotal v.toNat s)

/-- WRREG_TRIG (R275). -/
def execWrregTrig (v : TrigWord) (s : State) : Result := .next (writeTrig v.toNat s)

/-- CRC_PUSH (R270). -/
def execCrcPush (b : Byte) (s : State) : Result := .next (writeCrcData b.toNat s)

/-- STATUS_LAYOUT (R41): the read of register 1. -/
def execStatusLayout (s : State) : Result :=
  .next (setRet (.reg ((statusWord s).setWidth 17)) s)

end Sys2Proof.Machine
end

