-- ==== Sys2Proof/Machine/Channel.lean ====
section
/-! DEFINITION. The channel's primitives and the line ports as operations (20_memory.md R65 to R70, R81),
and `fail` (60_exceptions.md R305). -/

namespace Sys2Proof.Machine

/-- A write on the channel whose answer the writer gets back (R65). -/
def sendBytes (bs : Bytes) (s : State) : Result :=
  .next (setRet (.written (chanWrite bs s).1) (chanWrite bs s).2)

/-- RxArrive (R67). -/
def execRxArrive (b : Byte) (s : State) : Result := .next (rxArrive b s)

/-- ChanWrite (R65). -/
def execChanWrite (bs : Bytes) (s : State) : Result := sendBytes bs s

/-- ChanDrain (R66). -/
def execChanDrain (s : State) : Result := .next (setRet (.bytes (chanDrain s).1) (chanDrain s).2)

/-- SrcLine (R69). -/
def execSrcLine (k : Word) (s : State) : Result := .next (setRet (.bytes (srcLine k s)) s)

/-- LogAppend (R70). -/
def execLogAppend (p : Bytes) (s : State) : Result := .next (logAppend p s)

/-- CloseReq (R81). -/
def execCloseReq (s : State) : Result := .next (closeReq s)

/-- fail (R305). -/
def execFail (reason : FatalReason) (s : State) : Result := .next (fail reason s)

end Sys2Proof.Machine
end

