-- ==== Sys2Proof/Machine/Wire.lean ====
section
/-! DEFINITION. The wire formats as operations (30_encoding.md R96 to R102; log 3): a frame that travels
host to device is put on the channel (R65; the host may do so while DLPE owns no channel, R80, and U30
gives the effect), a frame that travels device to host arrives in RXB (R67). -/

namespace Sys2Proof.Machine

/-- F_REQ4 (R96). -/
def execFReq4 (seq : Word) (s : State) : Result := sendBytes (encReq seq false) s

/-- F_REQ6 (R97). -/
def execFReq6 (seq : Word) (s : State) : Result := sendBytes (encReq seq true) s

/-- F_ACK (R98). -/
def execFAck (seq : Word) (s : State) : Result := .next (rxArriveAll (encAck seq) s)

/-- F_REPLY (R99). -/
def execFReply (seq total : Word) (p : Bytes) (s : State) : Result :=
  .next (rxArriveAll (encReply seq total p) s)

/-- F_UDATA (R100). -/
def execFUdata (seq : Word) (p : Bytes) (s : State) : Result := sendBytes (encUdata seq p) s

/-- F_TERM (R101). -/
def execFTerm (s : State) : Result := sendBytes encTerm s

/-- F_TRIG_UL (R102). -/
def execFTrigUl (a : Byte) (s : State) : Result := sendBytes [a] s

/-- F_TRIG_DL (R102). -/
def execFTrigDl (a : Byte) (b : Option Byte) (s : State) : Result := sendBytes (a :: b.toList) s

end Sys2Proof.Machine
end

