-- ==== Sys2Proof/Machine/Dispatch.lean ====
section
/-! DEFINITION. The meaning of each operation, one arm per row of spec/opcode_table.json. -/

namespace Sys2Proof.Machine

def exec (i : Instr) (s : State) : Host.Outcome State Fault Refusal :=
  match i with
  | .fReq4 seq => Sys2Proof.Machine.execFReq4 seq s
  | .fReq6 seq => Sys2Proof.Machine.execFReq6 seq s
  | .fAck seq => Sys2Proof.Machine.execFAck seq s
  | .fReply seq total payload => Sys2Proof.Machine.execFReply seq total payload s
  | .fUdata seq payload => Sys2Proof.Machine.execFUdata seq payload s
  | .fTerm => Sys2Proof.Machine.execFTerm s
  | .fTrigUl a => Sys2Proof.Machine.execFTrigUl a s
  | .fTrigDl a b => Sys2Proof.Machine.execFTrigDl a b s
  | .nop => Sys2Proof.Machine.execNop s
  | .startUl => Sys2Proof.Machine.execStartUl s
  | .startDl reqCrc countSrc => Sys2Proof.Machine.execStartDl reqCrc countSrc s
  | .cancel => Sys2Proof.Machine.execCancel s
  | .abortProto => Sys2Proof.Machine.execAbortProto s
  | .clear => Sys2Proof.Machine.execClear s
  | .crcClr => Sys2Proof.Machine.execCrcClr s
  | .cmdReserved w => Sys2Proof.Machine.execCmdReserved w s
  | .rdreg n => Sys2Proof.Machine.execRdreg n s
  | .wrreg n v => Sys2Proof.Machine.execWrreg n v s
  | .wrregTotal v => Sys2Proof.Machine.execWrregTotal v s
  | .wrregTrig v => Sys2Proof.Machine.execWrregTrig v s
  | .crcPush b => Sys2Proof.Machine.execCrcPush b s
  | .statusLayout => Sys2Proof.Machine.execStatusLayout s
  | .ulSend => Sys2Proof.Machine.execUlSend s
  | .ulPoll => Sys2Proof.Machine.execUlPoll s
  | .dlReq => Sys2Proof.Machine.execDlReq s
  | .dlPoll => Sys2Proof.Machine.execDlPoll s
  | .ulDone => Sys2Proof.Machine.execUlDone s
  | .dlDone => Sys2Proof.Machine.execDlDone s
  | .ulStart => Sys2Proof.Machine.execUlStart s
  | .dlStart reqCrc countSrc => Sys2Proof.Machine.execDlStart reqCrc countSrc s
  | .crcUpd crc b => Sys2Proof.Machine.execCrcUpd crc b s
  | .crc16 bs => Sys2Proof.Machine.execCrc16 bs s
  | .crcHi bs => Sys2Proof.Machine.execCrcHi bs s
  | .crcLo bs => Sys2Proof.Machine.execCrcLo bs s
  | .encTail h => Sys2Proof.Machine.execEncTail h s
  | .encReq seq v => Sys2Proof.Machine.execEncReq seq v s
  | .encUdata seq p => Sys2Proof.Machine.execEncUdata seq p s
  | .encTerm => Sys2Proof.Machine.execEncTerm s
  | .encTrigUl => Sys2Proof.Machine.execEncTrigUl s
  | .encTrigDl => Sys2Proof.Machine.execEncTrigDl s
  | .encAck seq => Sys2Proof.Machine.execEncAck seq s
  | .encReply seq total p => Sys2Proof.Machine.execEncReply seq total p s
  | .findSync buf => Sys2Proof.Machine.execFindSync buf s
  | .decAck buf seq => Sys2Proof.Machine.execDecAck buf seq s
  | .decReply buf seq => Sys2Proof.Machine.execDecReply buf seq s
  | .prog seq total => Sys2Proof.Machine.execProg seq total s
  | .rxArrive b => Sys2Proof.Machine.execRxArrive b s
  | .chanWrite bs => Sys2Proof.Machine.execChanWrite bs s
  | .chanDrain => Sys2Proof.Machine.execChanDrain s
  | .srcLine k => Sys2Proof.Machine.execSrcLine k s
  | .logAppend p => Sys2Proof.Machine.execLogAppend p s
  | .closeReq => Sys2Proof.Machine.execCloseReq s
  | .fail reason => Sys2Proof.Machine.execFail reason s

end Sys2Proof.Machine
end

