-- ==== Sys2Proof/Machine/Fetch.lean ====
section
/-! DEFINITION. What the next step is: the first event of the agenda, else of what the environment does over
and over, else the sequencer's turn (R10, R339, R340, log 1). -/

namespace Sys2Proof.Machine

/-- What the next event makes of the step. -/
inductive Selected where
  /-- An operation, and the state it runs in. -/
  | run (i : Instr) (s : State)
  /-- No operation: an environment event, or a turn while no step is enabled. -/
  | settled (s : State)
  | fault (f : Fault)
  | refused (r : Refusal)
deriving DecidableEq, Repr

/-- An access becomes its operation; a turn with no step enabled leaves the state. -/
def selectAccess (a : Access) (s : State) : Selected :=
  match decode a with
  | .ok i => if i.wellFormed then .run i s else .refused (.illFormed i)
  | .err .noStepEnabled => .settled s
  | .err e => .refused (.undecodable e)

/-- The sequencer's turn: STATUS bits 3:0 select the step (R22, R200, R230). -/
def selectTurn (s : State) : Selected := selectAccess (.dispatch (dispatchBits s)) s

/-- The host makes lines available; a line over 255 bytes cannot be presented (R39, R69, log 10). -/
def presentLines (lines : List Bytes) (s : State) : Selected :=
  if lines.all fitsLen then .settled { s with src := lines } else .fault .lineTooLong

/-- One event. -/
def selectEvent (e : Event) (s : State) : Selected :=
  match e with
  | .turn => selectTurn s
  | .access a => selectAccess a s
  | .channel r => .settled { s with chan := r }
  | .present lines => presentLines lines s
  | .hwReset => .settled (hwReset s)

/-- The next event, and the state with it taken: the first of the agenda, which `standing` fills again when
it is empty; with nothing to come it is the sequencer's turn (R10, R339, R340). -/
def nextEvent (s : State) : Event × State :=
  match s.agenda, s.standing with
  | e :: rest, _ => (e, { s with agenda := rest })
  | [], .again (e :: rest) => (e, { s with agenda := rest })
  | [], .free k => (Config.freeEvent k, { s with standing := .free (k + 1) })
  | [], .again [] => (.turn, s)
  | [], .idle => (.turn, s)

/-- The next step: what the next event makes of the state with that event taken. -/
def select (s : State) : Selected := selectEvent (nextEvent s).1 (nextEvent s).2

/-- `s` with the access `a` next. A step of the sequencer is selected by STATE and MODE, which are set
so that its turn comes (log 17). -/
def stageAccess (a : Access) (s : State) : State :=
  match a with
  | .dispatch st =>
    { s with
      phase := phaseOfCode (st.extractLsb' 0 3), mode := modeOfBit (st.getLsbD 3)
      agenda := .turn :: s.agenda }
  | a => { s with agenda := .access a :: s.agenda }

end Sys2Proof.Machine
end

