-- ==== Sys2Proof/Machine/Step.lean ====
section
/-! DEFINITION. One step of the machine, and the placing of one operation where the step takes it. -/

namespace Sys2Proof.Machine

/-- One atomic step of one agent (R10). -/
def step (s : State) : Host.Outcome State Fault Refusal :=
  match select s with
  | .run i t => exec i t
  | .settled t => .next t
  | .fault f => .fault f
  | .refused r => .refused r

/-- `s` with the operation of the opcode table's word `w` next (log 17). -/
def State.withFetchWord (s : State) (nbits w : Nat) : State := stageAccess (tableAccess nbits w) s

end Sys2Proof.Machine
end

