-- ==== Sys2Proof/Safety.lean ====
section
/-! DEFINITION. What counts as a sound state and a finished run of DLPE, in the words of 10_state.md,
43_upload.md R205, 44_download.md R236 and 70_reset_and_hazards.md R342. -/

namespace Sys2Proof.Machine

/-- The session has ended (R342). -/
def State.ended (s : State) : Prop := s.phase = .terminated ∨ s.phase = .failed

/-- The session has ended successfully (R342). -/
def State.succeeded (s : State) : Prop := s.phase = .terminated

/-- What ties the session's registers together in every state a run reaches. -/
structure SessionInv (s : State) : Prop where
  /-- PROGRESS is 0 to 100 (R27). -/
  progress_le : s.progress.toNat ≤ 100
  /-- FAIL_REASON is non-zero exactly when STATE is FAILED (R33). -/
  failReason_iff : s.failReason ≠ none ↔ s.phase = .failed
  /-- A FAILED(Cancelled) leaves CANCEL_PEND at 1 as a record (R29). -/
  cancelled_pend : s.failReason = some .cancelled → s.cancelPend = true
  /-- IDLE: no session, its registers at their reset values (R24, R44, R268). -/
  idle_clean : s.phase = .idle →
    s.mode = .upload ∧ s.totalValid = false ∧ s.cancelPend = false ∧ s.seq = 0 ∧ s.progress = 0 ∧
      s.lastErr = none
  /-- An upload uses neither variant bit (R26). -/
  upload_variant : s.mode = .upload → s.reqCrc = false ∧ s.countSrc = .field
  /-- MODE is the session's kind (R23). -/
  upload_mode : s.phase = .sending ∨ s.phase = .awaitingAck → s.mode = .upload
  /-- MODE is the session's kind (R23). -/
  download_mode : s.phase = .requesting ∨ s.phase = .awaitingReply → s.mode = .download
  /-- The line of a written data frame is held for retries (R35, R203). -/
  line_held : s.phase = .awaitingAck → s.lineValid = true
  /-- `1 <= SEQ <= TOTAL` in an upload (R205 a), and TOTAL_VALID (R25). -/
  upload_cursor : s.mode = .upload →
    s.phase = .sending ∨ s.phase = .awaitingAck ∨ s.phase = .done ∨ s.phase = .terminated →
      1 ≤ s.seq.toNat ∧ s.seq.toNat ≤ s.total.toNat ∧ s.totalValid = true
  /-- PROGRESS of an upload is that of the packet before SEQ (R27, R272). -/
  upload_progress : s.phase = .sending ∨ s.phase = .awaitingAck →
    s.progress.toNat = 100 * (s.seq.toNat - 1) / s.total.toNat
  /-- `SEQ >= 1` in a download (R236 a); SEQ stays within a known TOTAL (R236 g); an unknown TOTAL reads
  0, and with COUNT_SRC TEXT it is known (R25). -/
  download_cursor : s.phase = .requesting ∨ s.phase = .awaitingReply →
    1 ≤ s.seq.toNat ∧ (s.totalValid = true → s.seq.toNat ≤ s.total.toNat) ∧
      (s.totalValid = false → s.total = 0) ∧ (s.countSrc = .text → s.totalValid = true)
  /-- `len(LOG) = SEQ - 1` while packets are requested (R236 b). -/
  download_log : s.phase = .requesting ∨ s.phase = .awaitingReply → s.log.length + 1 = s.seq.toNat
  /-- `len(LOG) = SEQ` when the last packet is in (R236 b). -/
  download_log_full : s.mode = .download → s.phase = .done ∨ s.phase = .terminated →
    s.log.length = s.seq.toNat
  /-- DONE and TERMINATED: the last packet was accepted (R205 c, R237, R342). -/
  finished : s.phase = .done ∨ s.phase = .terminated →
    s.progress = 100 ∧ s.totalValid = true ∧ 1 ≤ s.seq.toNat ∧ s.total.toNat ≤ s.seq.toNat
  /-- Every element of LOG has length 1 to 255 (R70, R236 d). -/
  log_lines : ∀ p ∈ s.log, 1 ≤ p.length ∧ p.length ≤ 255

/-- The buffers stay inside their bounds: TXP in canonical form inside its 255 bytes (R60), lines of SRC
of at most 255 bytes (R69), RXB within RXB_CAP (R67). -/
structure BufferInv (s : State) : Prop where
  txp_wf : s.txp.wf = true
  lines_fit : ∀ l ∈ s.src, l.length ≤ 255
  rxb_fits : ∀ c, s.rxbCap = some c → s.rxb.length ≤ c

/-- The operations of a list one after the other. -/
def execAll (is : List Instr) (s : State) : Result :=
  match is with
  | [] => .next s
  | i :: rest =>
    match exec i s with
    | .next t => execAll rest t
    | .fault f => .fault f
    | .refused r => .refused r

end Sys2Proof.Machine
end

