-- ==== Sys2Proof/Certificates/Slice0/Obligations.lean ====
section
/-! DEFINITION. The statements for the provers. The value an operation returns is observed in `ret` (log
4); the channel's answer, RXB_CAP and SRC are fields of the state (logs 5, 6, 9), and each statement holds
for every value of them. -/

namespace Sys2Proof.Claims

open Sys2Proof.Machine

/-! ### The words of the statements, written from the spec and not from the model's functions -/

/-- One turn of the generation law (R131). -/
def crcBit (c : Word) : Word := if c.getLsbD 0 then (c >>> 1) ^^^ 0xA001 else c >>> 1

/-- `n` turns of the generation law. -/
def crcBits : Nat → Word → Word
  | 0, c => c
  | n + 1, c => crcBits n (crcBit c)

/-- The checksum one bit at a time: each byte is exclusive-ored in and shifted out by eight turns. -/
def bitCrc (bs : Bytes) : Word := bs.foldl (fun c b => crcBits 8 (c ^^^ b.setWidth 16)) 0

/-- `w / 256`. -/
def hi (w : Word) : Byte := BitVec.ofNat 8 (w.toNat / 256)

/-- `w % 256`. -/
def lo (w : Word) : Byte := BitVec.ofNat 8 (w.toNat % 256)

/-- The span followed by its checksum (R95). -/
def withCrc (h : Bytes) : Bytes := h ++ [hi (crc16 h), lo (crc16 h)]

/-- Bytes 0 to 3 of a frame (R91, R92). -/
def head (seq : Word) : Bytes := [0x75, 0x65, hi seq, lo seq]

/-- F_REQ4 or F_REQ6 (R96, R97). -/
def requestFrame (seq : Word) (v : Bool) : Bytes := if v then withCrc (head seq) else head seq

/-- F_ACK (R98). -/
def ackFrame (seq : Word) : Bytes := withCrc (head seq)

/-- F_REPLY (R99). -/
def replyFrame (seq total : Word) (p : Bytes) : Bytes :=
  withCrc (head seq ++ [hi total, lo total, BitVec.ofNat 8 p.length] ++ p)

/-- F_UDATA (R100). -/
def dataFrame (seq : Word) (p : Bytes) : Bytes :=
  withCrc (head seq ++ [BitVec.ofNat 8 p.length] ++ p)

/-- F_TERM (R101). -/
def marker : Bytes := [0x10, 0x10, 0x10, 0x10]

/-- TRIG.B0 (R31). -/
def b0 (t : TrigWord) : Byte := BitVec.ofNat 8 (t.toNat % 256)

/-- TRIG.B1 (R31). -/
def b1 (t : TrigWord) : Byte := BitVec.ofNat 8 (t.toNat / 256 % 256)

/-- The download trigger: B0, and B1 when TRIG[16] is 1 (R102). -/
def downloadTrigger (t : TrigWord) : Bytes := if 65536 ≤ t.toNat then [b0 t, b1 t] else [b0 t]

/-- The sync pair stands at index `i` (R91). -/
def pairAt (buf : Bytes) (i : Nat) : Prop := buf[i]? = some 0x75 ∧ buf[i + 1]? = some 0x65

/-- Index `i` is the smallest at which the pair stands. -/
def firstPair (buf : Bytes) (i : Nat) : Prop := pairAt buf i ∧ ∀ j < i, ¬ pairAt buf j

/-- The pair stands nowhere. -/
def noPair (buf : Bytes) : Prop := ∀ i, ¬ pairAt buf i

/-- `buf[i] * 256 + buf[i+1]` (R61). -/
def field (buf : Bytes) (i : Nat) : Nat := (buf.getD i 0).toNat * 256 + (buf.getD (i + 1) 0).toNat

/-- The progress value (R272). -/
def percent (seq total : Word) : Nat :=
  if total = 0 then 100 else min 100 (100 * seq.toNat / total.toNat)

/-- The number of a state (R21). -/
def stateNumber : Phase → Nat
  | .idle => 0
  | .sending => 1
  | .awaitingAck => 2
  | .requesting => 3
  | .awaitingReply => 4
  | .done => 5
  | .terminated => 6
  | .failed => 7

/-- The number of a frame-level error in LASTERR (R301). -/
def errorNumber : Option FrameError → Nat
  | none => 0
  | some .syncNotFound => 1
  | some .frameTooShort => 2
  | some .checksumMismatch => 3
  | some .sequenceMismatch => 4
  | some .emptyPayload => 5

/-- The number of a fatal reason in FAIL_REASON (R301). -/
def reasonNumber : Option FatalReason → Nat
  | none => 0
  | some .ioError => 1
  | some .protocolError => 2
  | some .cancelled => 3

/-- The fields of STATUS and the bits they stand at, with every bit from 11 on 0 (R41). -/
def statusFields (s : State) (v : BitVec 17) : Prop :=
  v.toNat % 8 = stateNumber s.phase ∧ (v.getLsbD 3 = true ↔ s.mode = .download) ∧
    v.getLsbD 4 = s.reqCrc ∧ (v.getLsbD 5 = true ↔ s.countSrc = .text) ∧
    v.getLsbD 6 = s.totalValid ∧ v.getLsbD 7 = s.cancelPend ∧ v.getLsbD 8 = s.cmdErr ∧
    v.toNat / 512 = reasonNumber s.failReason

/-- STATE 1 to 5 (R29). -/
def active (s : State) : Prop := s.phase ≠ .idle ∧ s.phase ≠ .terminated ∧ s.phase ≠ .failed

/-- The command word is one of R271. -/
def reservedWord (w : Word) : Prop :=
  64 ≤ w.toNat ∨ 7 ≤ w.toNat % 16 ∨ (16 ≤ w.toNat % 64 ∧ w.toNat % 16 ≠ 2)

/-- The four words of START_DL (R107, R265). -/
def startDownloadWords : List Nat := [0x0002, 0x0012, 0x0022, 0x0032]

/-- Event `e` is the next one of `s`, and `u` is `s` with it taken (log 1): the first scheduled event; with
nothing scheduled the first of the events the environment repeats, which schedules the rest of them, or
the next free event; with neither, the sequencer's turn. -/
def upcoming (s : State) (e : Event) (u : State) : Prop :=
  (∃ rest, (s.agenda = e :: rest ∨ (s.agenda = [] ∧ s.standing = .again (e :: rest))) ∧
    u = { s with agenda := rest }) ∨
  (s.agenda = [] ∧ ∃ k, s.standing = .free k ∧ e = Config.freeEvent k ∧
    u = { s with standing := .free (k + 1) }) ∨
  (s.agenda = [] ∧ (s.standing = .idle ∨ s.standing = .again []) ∧ e = .turn ∧ u = s)

/-- The next event is `e`. -/
def comesNext (s : State) (e : Event) : Prop := ∃ u, upcoming s e u

/-- The event runs the sequencer's step of state number `n`: the turn, or the step's own bits. -/
def sequencerEvent (n : Nat) (e : Event) : Prop :=
  e = .turn ∨ ∃ st : BitVec 4, st.toNat % 8 = n ∧ e = .access (.dispatch st)

/-- A link that answers each of `n` data frames at once with its acknowledgement, and the sequencer's
turns. -/
def promptAcks (n : Nat) : List Event :=
  (List.range n).flatMap (fun k =>
    [.turn, .access (.deviceSend .upload (ackFrame (BitVec.ofNat 16 (k + 1)))), .turn]) ++ [.turn]

/-- A link that answers request `k` at once with line `k` of `lines`, and the sequencer's turns. -/
def promptReplies (lines : List Bytes) : List Event :=
  (List.range lines.length).flatMap (fun k =>
    [.turn,
      .access (.deviceSend .download
        (replyFrame (BitVec.ofNat 16 (k + 1)) (BitVec.ofNat 16 lines.length) (lines.getD k []))),
      .turn]) ++ [.turn]

end Sys2Proof.Claims

open Sys2Proof Sys2Proof.Machine Sys2Proof.Claims

/-! ### Checksum engine -/

/-- Derived: the table of R130 against the law of R131 (the spec marks both as general knowledge). -/
def Obligations.LutEntriesFollowTheGenerationLaw : Prop :=
  ∀ i : Byte, lut i = crcBits 8 (i.setWidth 16)

/-- Derived: the check of R131 that the whole table follows from eight entries. -/
def Obligations.LutIsLinearOverXor : Prop :=
  ∀ i j : Byte, lut (i ^^^ j) = lut i ^^^ lut j

/-- R132. -/
def Obligations.CrcUpdateReturnsTheTableStep : Prop :=
  ∀ (crc : Word) (b : Byte) (s : State),
    exec (.crcUpd crc b) s =
      .next { s with
        ret := .word (lut (((b.setWidth 16 ^^^ crc) &&& 0xFF).setWidth 8) ^^^ (crc >>> 8)) }

/-- R133. -/
def Obligations.Crc16FoldsTheUpdateFromZero : Prop :=
  ∀ s : State,
    exec (.crc16 []) s = .next { s with ret := .word 0 } ∧
      ∀ (bs : Bytes) (b : Byte), ∃ c : Word,
        exec (.crc16 bs) s = .next { s with ret := .word c } ∧
          exec (.crc16 (bs ++ [b])) s = .next { s with ret := .word (crcUpd c b) }

/-- Derived from R131 to R133: the table-driven checksum is the bit-serial one. -/
def Obligations.Crc16IsTheBitSerialChecksum : Prop :=
  ∀ (bs : Bytes) (s : State), exec (.crc16 bs) s = .next { s with ret := .word (bitCrc bs) }

/-- R134, R135. -/
def Obligations.CrcBytesAreQuotientAndRemainder : Prop :=
  ∀ (bs : Bytes) (s : State), ∃ h l : Byte,
    exec (.crcHi bs) s = .next { s with ret := .byte h } ∧
      exec (.crcLo bs) s = .next { s with ret := .byte l } ∧
      h.toNat = (crc16 bs).toNat / 256 ∧ l.toNat = (crc16 bs).toNat % 256

/-- Derived from R269 and R270: their pseudocode, and the sentence of R270 the spec marks as derived, for a
port used outside a session. -/
def Obligations.CrcPortFollowsItsRules : Prop :=
  ∀ s : State,
    (active s →
      exec .crcClr s = .next { s with cmdErr := true } ∧
        ∀ b : Byte, exec (.crcPush b) s = .next { s with cmdErr := true }) ∧
    (¬ active s →
      exec .crcClr s = .next { s with crcAcc := 0 } ∧
        (∀ b : Byte, exec (.crcPush b) s = .next { s with crcAcc := crcUpd s.crcAcc b }) ∧
        ∀ bs : Bytes,
          execAll ([.crcClr] ++ bs.map .crcPush ++ [.rdreg 7]) s =
            .next { s with crcAcc := crc16 bs, ret := .reg ((crc16 bs).setWidth 17) }) ∧
    ∀ v : Nat, 0xFF < v → exec (.wrreg 8 v) s = .next { s with cmdErr := true }

/-! ### Serializer -/

/-- R150, R151, R156. -/
def Obligations.SerializerBuildsRequestsAndAcks : Prop :=
  ∀ (s : State) (h : Bytes) (seq : Word),
    exec (.encTail h) s = .next { s with ret := .bytes (h ++ [hi (crc16 h), lo (crc16 h)]) } ∧
      exec (.encReq seq false) s = .next { s with ret := .bytes [0x75, 0x65, hi seq, lo seq] } ∧
      exec (.encReq seq true) s =
        .next { s with ret := .bytes (withCrc [0x75, 0x65, hi seq, lo seq]) } ∧
      exec (.encAck seq) s = .next { s with ret := .bytes (withCrc [0x75, 0x65, hi seq, lo seq]) }

/-- R152, R157. -/
def Obligations.SerializerBuildsDataFramesAndReplies : Prop :=
  ∀ (s : State) (seq total : Word) (p : Bytes), p.length ≤ 255 →
    exec (.encUdata seq p) s = .next { s with ret := .bytes (dataFrame seq p) } ∧
      (dataFrame seq p).length = 7 + p.length ∧
      exec (.encReply seq total p) s = .next { s with ret := .bytes (replyFrame seq total p) } ∧
      (replyFrame seq total p).length = 9 + p.length

/-- R153, R154, R155. -/
def Obligations.SerializerBuildsMarkerAndTriggers : Prop :=
  ∀ s : State,
    exec .encTerm s = .next { s with ret := .bytes [0x10, 0x10, 0x10, 0x10] } ∧
      exec .encTrigUl s = .next { s with ret := .bytes [b0 s.trig] } ∧
      exec .encTrigDl s = .next { s with ret := .bytes (downloadTrigger s.trig) }

/-! ### Deserializer -/

/-- R170. -/
def Obligations.FindSyncReturnsTheLeastPair : Prop :=
  ∀ (buf : Bytes) (s : State), ∃ r : Option Nat,
    exec (.findSync buf) s = .next { s with ret := .index r } ∧
      (∀ i, r = some i ↔ firstPair buf i) ∧ (r = none ↔ noPair buf)

/-- R171, with the order of the tests. -/
def Obligations.DecAckClassifiesByTheFirstPair : Prop :=
  ∀ (buf : Bytes) (seq : Word) (s : State), ∃ v : AckResult,
    exec (.decAck buf seq) s = .next { s with ret := .ack v } ∧
      (noPair buf → v = .err .syncNotFound) ∧
      ∀ i, firstPair buf i →
        (buf.length - i < 6 → v = .err .frameTooShort) ∧
        (6 ≤ buf.length - i →
          ((crc16 ((buf.drop i).take 4)).toNat ≠ field buf (i + 4) → v = .err .checksumMismatch) ∧
          ((crc16 ((buf.drop i).take 4)).toNat = field buf (i + 4) →
            (field buf (i + 2) ≠ seq.toNat → v = .err .sequenceMismatch) ∧
            (field buf (i + 2) = seq.toNat → v = .ok)))

/-- R172, with the order of the tests. -/
def Obligations.DecReplyClassifiesByTheFirstPair : Prop :=
  ∀ (buf : Bytes) (seq : Word) (s : State), ∃ v : ReplyResult,
    exec (.decReply buf seq) s = .next { s with ret := .reply v } ∧
      (noPair buf → v = .err .syncNotFound) ∧
      ∀ i, firstPair buf i →
        let n := (buf.getD (i + 6) 0).toNat
        (buf.length - i < 9 ∨ buf.length - i < 9 + n → v = .err .frameTooShort) ∧
        (9 + n ≤ buf.length - i →
          ((crc16 ((buf.drop i).take (7 + n))).toNat ≠ field buf (i + 7 + n) →
            v = .err .checksumMismatch) ∧
          ((crc16 ((buf.drop i).take (7 + n))).toNat = field buf (i + 7 + n) →
            (field buf (i + 2) ≠ seq.toNat → v = .err .sequenceMismatch) ∧
            (field buf (i + 2) = seq.toNat →
              (n = 0 → v = .err .emptyPayload) ∧
              (n ≠ 0 → ∃ total : Word,
                total.toNat = field buf (i + 4) ∧ v = .ok total ((buf.drop (i + 7)).take n)))))

/-- Derived (the spec marks R175 so). -/
def Obligations.AckRoundTripsInsideAnyBytes : Prop :=
  ∀ (before after : Bytes) (seq : Word) (s : State), noPair before →
    exec (.decAck (before ++ ackFrame seq ++ after) seq) s = .next { s with ret := .ack .ok }

/-- Derived (the spec marks R175 so). -/
def Obligations.ReplyRoundTripsInsideAnyBytes : Prop :=
  ∀ (before after p : Bytes) (seq total : Word) (s : State), noPair before → p.length ≤ 255 →
    exec (.decReply (before ++ replyFrame seq total p ++ after) seq) s =
      .next { s with ret := .reply (if p = [] then .err .emptyPayload else .ok total p) }

/-- Derived from R174: a stale frame in front hides whatever stands behind it. -/
def Obligations.StaleFrameHidesTheRest : Prop :=
  ∀ (old seq total : Word) (p after : Bytes) (s : State), old ≠ seq → p.length ≤ 255 →
    exec (.decAck (ackFrame old ++ after) seq) s =
        .next { s with ret := .ack (.err .sequenceMismatch) } ∧
      exec (.decReply (replyFrame old total p ++ after) seq) s =
        .next { s with ret := .reply (.err .sequenceMismatch) }

/-- R272. -/
def Obligations.ProgressFunctionTruncatesAndClamps : Prop :=
  ∀ (seq total : Word) (s : State), ∃ v : BitVec 7,
    exec (.prog seq total) s = .next { s with ret := .percent v } ∧
      v.toNat = (if total = 0 then 100
        else if 100 < 100 * seq.toNat / total.toNat then 100 else 100 * seq.toNat / total.toNat)

/-! ### Channel, line ports, errors -/

/-- R67. -/
def Obligations.ByteArrivalAppendsOrIsLost : Prop :=
  ∀ (b : Byte) (s : State),
    (s.rxbCap = none → exec (.rxArrive b) s = .next { s with rxb := s.rxb ++ [b] }) ∧
      ∀ c, s.rxbCap = some c →
        (s.rxb.length < c → exec (.rxArrive b) s = .next { s with rxb := s.rxb ++ [b] }) ∧
        (c ≤ s.rxb.length → exec (.rxArrive b) s = .next s)

/-- R65. -/
def Obligations.ChannelWriteRecordsWhatLeft : Prop :=
  ∀ (bs : Bytes) (s : State), bs ≠ [] →
    (s.chan = .ok →
      exec (.chanWrite bs) s =
        .next { s with out := s.out ++ [.tx bs], ret := .written true }) ∧
    ∀ k, s.chan = .err k →
      ∃ n ≤ bs.length,
        exec (.chanWrite bs) s =
          .next { s with out := s.out ++ [.txFail (bs.take n)], ret := .written false } ∧
        (k ≤ bs.length → n = k)

/-- Derived from R66, R70 and R81: the pseudocode of ChanDrain, LogAppend and CloseReq. -/
def Obligations.DrainAppendAndCloseComplete : Prop :=
  ∀ (s : State) (p : Bytes),
    exec .chanDrain s = .next { s with rxb := [], ret := .bytes s.rxb } ∧
      exec (.logAppend p) s = .next { s with log := s.log ++ [p] } ∧
      exec .closeReq s = .next { s with out := s.out ++ [.close] }

/-- R305: the entry to FAILED changes FAIL_REASON and STATE and nothing else. -/
def Obligations.FailEntersFailedAndKeepsTheRest : Prop :=
  ∀ (r : FatalReason) (s : State),
    exec (.fail r) s = .next { s with failReason := some r, phase := .failed }

/-- Derived from R69 and R39: a presented line is returned, and every line has at most 255 bytes (what an
unpresented line holds is free, log 9). -/
def Obligations.SourceLineReturnsThePresentedLine : Prop :=
  ∀ (k : Word) (s : State), ∃ l : Bytes,
    exec (.srcLine k) s = .next { s with ret := .bytes l } ∧ l.length ≤ 255 ∧
      ∀ line, 1 ≤ k.toNat → k.toNat ≤ s.total.toNat → s.src[k.toNat - 1]? = some line →
        line.length ≤ 255 → l = line

/-! ### Wire formats as operations (log 3) -/

/-- Derived from R65, R96, R97, R100 to R102 (log 3): a host-to-device format goes onto the channel. -/
def Obligations.HostToDeviceFormatsAreWritten : Prop :=
  ∀ (i : Instr) (f : Bytes) (s : State),
    ((∃ seq, i = .fReq4 seq ∧ f = head seq) ∨ (∃ seq, i = .fReq6 seq ∧ f = withCrc (head seq)) ∨
      (∃ seq p, i = .fUdata seq p ∧ p.length ≤ 255 ∧ f = dataFrame seq p) ∨
      (i = .fTerm ∧ f = marker) ∨ (∃ a, i = .fTrigUl a ∧ f = [a]) ∨
      (∃ a, i = .fTrigDl a none ∧ f = [a]) ∨ (∃ a b, i = .fTrigDl a (some b) ∧ f = [a, b])) →
    (s.chan = .ok →
      exec i s = .next { s with out := s.out ++ [.tx f], ret := .written true }) ∧
    ∀ k, s.chan = .err k →
      exec i s = .next { s with out := s.out ++ [.txFail (f.take k)], ret := .written false }

/-- Derived from R67, R98, R99 (log 3): a device-to-host format arrives in RXB as far as it has room. -/
def Obligations.DeviceToHostFormatsArrive : Prop :=
  ∀ (i : Instr) (f : Bytes) (s : State),
    ((∃ seq, i = .fAck seq ∧ f = ackFrame seq) ∨
      (∃ seq total p, i = .fReply seq total p ∧ p.length ≤ 255 ∧ f = replyFrame seq total p)) →
    (s.rxbCap = none → exec i s = .next { s with rxb := s.rxb ++ f }) ∧
    ∀ c, s.rxbCap = some c → s.rxb.length ≤ c →
      exec i s = .next { s with rxb := (s.rxb ++ f).take c }

/-! ### Host registers -/

/-- R261, register 1 by the fields of R41. -/
def Obligations.RegisterReadsReturnTheirRegister : Prop :=
  ∀ (n : Nat) (s : State), ∃ v : BitVec 17,
    exec (.rdreg n) s = .next { s with ret := .reg v } ∧
      (n = 0 → v = 0) ∧ (n = 1 → statusFields s v) ∧ (n = 2 → v.toNat = s.seq.toNat) ∧
      (n = 3 → v.toNat = s.total.toNat) ∧ (n = 4 → v.toNat = s.progress.toNat) ∧
      (n = 5 → v.toNat = errorNumber s.lastErr) ∧ (n = 6 → v = s.trig) ∧
      (n = 7 → v.toNat = s.crcAcc.toNat) ∧ (8 ≤ n → v = 0)

/-- R41. -/
def Obligations.StatusHoldsItsFields : Prop :=
  ∀ s : State, ∃ v : BitVec 17,
    exec .statusLayout s = .next { s with ret := .reg v } ∧ statusFields s v

/-- R262: WRREG does what the more specific row does, or is refused; the command words in numbers. -/
def Obligations.RegisterWritesFollowTheirRegister : Prop :=
  ∀ s : State,
    exec (.wrreg 0 0x0000) s = exec .nop s ∧
    exec (.wrreg 0 0x0001) s = exec .startUl s ∧
    exec (.wrreg 0 0x0002) s = exec (.startDl false .field) s ∧
    exec (.wrreg 0 0x0012) s = exec (.startDl true .field) s ∧
    exec (.wrreg 0 0x0022) s = exec (.startDl false .text) s ∧
    exec (.wrreg 0 0x0032) s = exec (.startDl true .text) s ∧
    exec (.wrreg 0 0x0003) s = exec .cancel s ∧
    exec (.wrreg 0 0x0004) s = exec .abortProto s ∧
    exec (.wrreg 0 0x0005) s = exec .clear s ∧
    exec (.wrreg 0 0x0006) s = exec .crcClr s ∧
    (∀ w : Word, reservedWord w → exec (.wrreg 0 w.toNat) s = .next { s with cmdErr := true }) ∧
    (∀ (w : Word) (i : Instr), decode (.hostWrite 0 w.toNat) = .ok i →
      exec (.wrreg 0 w.toNat) s = exec i s) ∧
    (∀ v : Word, exec (.wrreg 3 v.toNat) s = exec (.wrregTotal v) s) ∧
    (∀ v : Word, s.phase = .idle → exec (.wrreg 3 v.toNat) s = .next { s with total := v }) ∧
    (∀ v : TrigWord, exec (.wrreg 6 v.toNat) s = exec (.wrregTrig v) s) ∧
    (∀ b : Byte, exec (.wrreg 8 b.toNat) s = exec (.crcPush b) s) ∧
    ∀ n v : Nat, n = 1 ∨ n = 2 ∨ n = 4 ∨ n = 5 ∨ n = 7 ∨ 9 ≤ n →
      exec (.wrreg n v) s = .next { s with cmdErr := true }

/-- Derived from R110 and R40; the width of CMD is log 16 (DEDUCED). -/
def Obligations.ReservedNumbersAndWideValues : Prop :=
  ∀ (s : State) (n v : Nat),
    (9 ≤ n → exec (.rdreg n) s = .next { s with ret := .reg 0 } ∧
      exec (.wrreg n v) s = .next { s with cmdErr := true }) ∧
    ((n = 0 ∧ 2 ^ 16 ≤ v) ∨ (n = 3 ∧ 2 ^ 16 ≤ v) ∨ (n = 6 ∧ 2 ^ 17 ≤ v) ∨ (n = 8 ∧ 2 ^ 8 ≤ v) →
      exec (.wrreg n v) s = .next { s with cmdErr := true })

/-- R274. -/
def Obligations.TotalIsWrittenOnlyInIdle : Prop :=
  ∀ (v : Word) (s : State),
    (s.phase = .idle → exec (.wrregTotal v) s = .next { s with total := v }) ∧
      (s.phase ≠ .idle → exec (.wrregTotal v) s = .next { s with cmdErr := true }) ∧
      ∀ n : Nat, 0xFFFF < n → exec (.wrreg 3 n) s = .next { s with cmdErr := true }

/-- R275. -/
def Obligations.TrigIsWrittenOnlyInIdle : Prop :=
  ∀ (v : TrigWord) (s : State),
    (s.phase = .idle → exec (.wrregTrig v) s = .next { s with trig := v }) ∧
      (s.phase ≠ .idle → exec (.wrregTrig v) s = .next { s with cmdErr := true }) ∧
      ∀ n : Nat, 0x1FFFF < n → exec (.wrreg 6 n) s = .next { s with cmdErr := true }

/-! ### Commands -/

/-- R263, R271. -/
def Obligations.NopDoesNothingAndReservedWordsAreRefused : Prop :=
  ∀ s : State,
    exec .nop s = .next s ∧
      ∀ w : Word, reservedWord w →
        decode (.hostWrite 0 w.toNat) = .ok (.cmdReserved w) ∧
          exec (.cmdReserved w) s = .next { s with cmdErr := true }

/-- Derived from R264 and R201: `srcEpoch` is the model's own counter (log 9, DESIGN CHOICE). -/
def Obligations.StartUploadOpensTheSession : Prop :=
  ∀ s : State,
    (s.phase ≠ .idle ∨ s.total = 0 → exec .startUl s = .next { s with cmdErr := true }) ∧
    ∀ i : Instr, i = .ulStart ∨ (i = .startUl ∧ s.phase = .idle ∧ s.total ≠ 0) →
      (s.chan = .ok →
        exec i s =
          .next { s with
            mode := .upload, reqCrc := false, countSrc := .field, totalValid := true
            cancelPend := false, failReason := none, lastErr := none, seq := 1, progress := 0
            lineValid := false, srcEpoch := s.srcEpoch + 1
            out := s.out ++ [.tx [b0 s.trig]], phase := .sending }) ∧
      ∀ k, s.chan = .err k →
        exec i s =
          .next { s with
            mode := .upload, reqCrc := false, countSrc := .field, totalValid := true
            cancelPend := false, failReason := some .ioError, lastErr := none, seq := 1
            progress := 0, lineValid := false, srcEpoch := s.srcEpoch + 1
            out := s.out ++ [.txFail ([b0 s.trig].take k)], phase := .failed }

/-- R265 and R231. -/
def Obligations.StartDownloadOpensTheSession : Prop :=
  ∀ (q : Bool) (c : CountSrc) (s : State),
    (s.phase ≠ .idle ∨ (c = .text ∧ s.total = 0) →
      exec (.startDl q c) s = .next { s with cmdErr := true }) ∧
    ∀ i : Instr,
      i = .dlStart q c ∨ (i = .startDl q c ∧ s.phase = .idle ∧ (c = .text → s.total ≠ 0)) →
      (c = .text →
        exec i s =
          .next { s with
            mode := .download, reqCrc := q, countSrc := .text, cancelPend := false
            failReason := none, lastErr := none, seq := 1, progress := 0, log := []
            totalValid := true, phase := .requesting }) ∧
      (c = .field →
        (s.chan = .ok →
          exec i s =
            .next { s with
              mode := .download, reqCrc := q, countSrc := .field, cancelPend := false
              failReason := none, lastErr := none, seq := 1, progress := 0, log := []
              total := 0, totalValid := false
              out := s.out ++ [.tx (downloadTrigger s.trig)], phase := .requesting }) ∧
        ∀ k, s.chan = .err k →
          exec i s =
            .next { s with
              mode := .download, reqCrc := q, countSrc := .field, cancelPend := false
              failReason := some .ioError, lastErr := none, seq := 1, progress := 0, log := []
              total := 0, totalValid := false
              out := s.out ++ [.txFail ((downloadTrigger s.trig).take k)], phase := .failed })

/-- R266, R267. -/
def Obligations.CancelAndAbortProtoFollowTheirRules : Prop :=
  ∀ s : State,
    (active s → exec .cancel s = .next { s with cancelPend := true }) ∧
      (¬ active s → exec .cancel s = .next s) ∧
      (s.phase = .idle →
        exec .abortProto s = .next { s with phase := .failed, failReason := some .protocolError }) ∧
      (s.phase ≠ .idle → exec .abortProto s = .next { s with cmdErr := true })

/-- R268. -/
def Obligations.ClearDiscardsAFinishedSession : Prop :=
  ∀ s : State,
    (active s → exec .clear s = .next { s with cmdErr := true }) ∧
    (¬ active s →
      exec .clear s =
        .next { s with
          phase := .idle, mode := .upload, reqCrc := false, countSrc := .field
          totalValid := false, cancelPend := false, cmdErr := false, failReason := none
          seq := 0, total := 0, progress := 0, lastErr := none, txLen := 0, lineValid := false })

/-! ### Upload sequencer -/

/-- R202: cancelled, line SEQ fetched or held, frame written, write error; the frame of TXP: the bytes of
the line are stored at indices 0 to its length less one, every other byte of TXP reads as before. -/
def Obligations.UploadSendFollowsItsRule : Prop :=
  ∀ s : State, s.phase = .sending → s.txp.wf = true →
    (s.cancelPend = true →
      exec .ulSend s =
        .next { s with out := s.out ++ [.close], failReason := some .cancelled, phase := .failed }) ∧
    (s.cancelPend = false → ∃ (line : Bytes) (buf : Memory),
      (s.lineValid = true → line = Memory.readAll s.txp 0 s.txLen.toNat ∧ buf = s.txp) ∧
      (s.lineValid = false → exec (.srcLine s.seq) s = .next { s with ret := .bytes line } ∧
        ∀ a, Memory.read buf a = if a < line.length then line.getD a 0 else Memory.read s.txp a) ∧
      (s.chan = .ok →
        exec .ulSend s =
          .next { s with
            txLen := BitVec.ofNat 8 line.length, txp := buf, lineValid := true
            out := s.out ++ [.tx (dataFrame s.seq line)], phase := .awaitingAck }) ∧
      ∀ k, s.chan = .err k →
        exec .ulSend s =
          .next { s with
            txLen := BitVec.ofNat 8 line.length, txp := buf, lineValid := true
            out := s.out ++ [.txFail ((dataFrame s.seq line).take k)]
            failReason := some .ioError, phase := .failed })

/-- R203: accepted, accepted last, and retry. -/
def Obligations.UploadPollFollowsItsRule : Prop :=
  ∀ s : State, s.phase = .awaitingAck →
    (decAck s.rxb s.seq = .ok →
      (s.seq.toNat + 1 > s.total.toNat →
        exec .ulPoll s =
          .next { s with
            rxb := [], progress := BitVec.ofNat 7 (percent s.seq s.total), phase := .done }) ∧
      (s.seq.toNat + 1 ≤ s.total.toNat →
        exec .ulPoll s =
          .next { s with
            rxb := [], progress := BitVec.ofNat 7 (percent s.seq s.total), seq := s.seq + 1
            lineValid := false, phase := .sending })) ∧
    ∀ e, decAck s.rxb s.seq = .err e →
      exec .ulPoll s = .next { s with rxb := [], lastErr := some e, phase := .sending }

/-- R204. -/
def Obligations.UploadDoneFollowsItsRule : Prop :=
  ∀ s : State, s.phase = .done → s.mode = .upload →
    (s.chan = .ok →
      exec .ulDone s =
        .next { s with out := s.out ++ [.tx marker], rxb := [], phase := .terminated }) ∧
    ∀ k, s.chan = .err k →
      exec .ulDone s =
        .next { s with
          out := s.out ++ [.txFail (marker.take k)], failReason := some .ioError, phase := .failed }

/-! ### Download sequencer -/

/-- R232. -/
def Obligations.DownloadRequestFollowsItsRule : Prop :=
  ∀ s : State, s.phase = .requesting →
    (s.cancelPend = true →
      exec .dlReq s =
        .next { s with out := s.out ++ [.close], failReason := some .cancelled, phase := .failed }) ∧
    (s.cancelPend = false →
      (s.chan = .ok →
        exec .dlReq s =
          .next { s with
            out := s.out ++ [.tx (requestFrame s.seq s.reqCrc)], phase := .awaitingReply }) ∧
      ∀ k, s.chan = .err k →
        exec .dlReq s =
          .next { s with
            out := s.out ++ [.txFail ((requestFrame s.seq s.reqCrc).take k)]
            failReason := some .ioError, phase := .failed })

/-- R233 with R235: the total learned or kept, the line appended, the last packet, and retry. -/
def Obligations.DownloadPollFollowsItsRule : Prop :=
  ∀ s : State, s.phase = .awaitingReply →
    (∀ (t : Word) (p : Bytes), decReply s.rxb s.seq = .ok t p →
      ∃ (total : Word) (valid : Bool),
        (s.countSrc = .field → total = t ∧ valid = true) ∧
        (s.countSrc = .text → total = s.total ∧ valid = s.totalValid) ∧
        (s.seq.toNat + 1 > total.toNat →
          exec .dlPoll s =
            .next { s with
              rxb := [], total := total, totalValid := valid, log := s.log ++ [p]
              progress := BitVec.ofNat 7 (percent s.seq total), phase := .done }) ∧
        (s.seq.toNat + 1 ≤ total.toNat →
          exec .dlPoll s =
            .next { s with
              rxb := [], total := total, totalValid := valid, log := s.log ++ [p]
              progress := BitVec.ofNat 7 (percent s.seq total), seq := s.seq + 1
              phase := .requesting })) ∧
    ∀ e, decReply s.rxb s.seq = .err e →
      exec .dlPoll s = .next { s with rxb := [], lastErr := some e, phase := .requesting }

/-- R234. -/
def Obligations.DownloadDoneFollowsItsRule : Prop :=
  ∀ s : State, s.phase = .done → s.mode = .download →
    (s.chan = .ok →
      exec .dlDone s =
        .next { s with out := s.out ++ [.tx marker, .close], phase := .terminated }) ∧
    ∀ k, s.chan = .err k →
      exec .dlDone s =
        .next { s with
          out := s.out ++ [.txFail (marker.take k)], failReason := some .ioError, phase := .failed }

/-! ### The step -/

/-- Derived from R10 and R109 (logs 1, 2, 13, the model's choices): an access that comes next and decodes to
a well-formed operation runs it; a host read of register n runs as RDREG n, a host write as WRREG n. -/
def Obligations.StepRunsTheDecodedOperation : Prop :=
  ∀ s u : State,
    (∀ (a : Access) (i : Instr), upcoming s (.access a) u → decode a = .ok i → i.wellFormed = true →
      step s = exec i u) ∧
    (∀ n : Nat, upcoming s (.access (.hostRead n)) u → step s = exec (.rdreg n) u) ∧
    ∀ n v : Nat, upcoming s (.access (.hostWrite n v)) u → step s = exec (.wrreg n v) u

/-- Derived from R21, R200 and R230 (log 1 for when the turn comes): the sequencer's turn takes the step
that STATE and MODE enable, and leaves the state where none is enabled. -/
def Obligations.TurnTakesTheEnabledStep : Prop :=
  ∀ s u : State, upcoming s .turn u →
    (s.phase = .sending → step s = exec .ulSend u) ∧
      (s.phase = .awaitingAck → step s = exec .ulPoll u) ∧
      (s.phase = .requesting → step s = exec .dlReq u) ∧
      (s.phase = .awaitingReply → step s = exec .dlPoll u) ∧
      (s.phase = .done → s.mode = .upload → step s = exec .ulDone u) ∧
      (s.phase = .done → s.mode = .download → step s = exec .dlDone u) ∧
      (s.phase = .idle ∨ s.phase = .terminated ∨ s.phase = .failed → step s = .next u)

/-- Derived from R39, R44, R65, R69 and R330 (logs 1, 5, 9, 10, 12): the environment's events. -/
def Obligations.EnvironmentEventsChangeTheirOwn : Prop :=
  ∀ s u : State,
    (∀ r, upcoming s (.channel r) u → step s = .next { u with chan := r }) ∧
    (∀ ls, upcoming s (.present ls) u →
      ((∀ l ∈ ls, l.length ≤ 255) → step s = .next { u with src := ls }) ∧
      ((∃ l ∈ ls, 255 < l.length) → step s = .fault .lineTooLong)) ∧
    (upcoming s .hwReset u →
      step s =
        .next { u with
          phase := .idle, mode := .upload, reqCrc := false, countSrc := .field
          totalValid := false, cancelPend := false, cmdErr := false, failReason := none
          seq := 0, total := 0, progress := 0, lastErr := none, trig := 0, crcAcc := 0
          txLen := 0, lineValid := false, out := [], log := [] })

/-- Derived from R44: the values it gives to elements of the state (LUT is a constant; RXB, TXP and SRC
have none). -/
def Obligations.ResetHoldsTheValuesOfTheTable : Prop :=
  let s := State.reset
  s.phase = .idle ∧ s.mode = .upload ∧ s.reqCrc = false ∧ s.countSrc = .field ∧
    s.totalValid = false ∧ s.cancelPend = false ∧ s.cmdErr = false ∧ s.failReason = none ∧
    s.seq = 0 ∧ s.total = 0 ∧ s.progress = 0 ∧ s.lastErr = none ∧ s.trig = 0 ∧ s.crcAcc = 0 ∧
    s.txLen = 0 ∧ s.lineValid = false ∧ s.out = [] ∧ s.log = [] ∧ statusWord s = 0

/-- Derived (the spec marks R11 so): every operation, in every state, answers a next state. -/
def Obligations.EveryOperationAnswersANextState : Prop :=
  ∀ (i : Instr) (s : State), ∃ t, exec i s = .next t

/-- Derived from R69 and R90 (logs 1, 2, 10, 13): a step stops only on an event that is no event of the
spec. -/
def Obligations.StepStopsOnlyOnAnUnsoundEvent : Prop :=
  ∀ s : State,
    (∀ f, step s = .fault f → ∃ ls, comesNext s (.present ls) ∧ ∃ l ∈ ls, 255 < l.length) ∧
    ∀ r, step s = .refused r →
      ∃ a, comesNext s (.access a) ∧
        ((∃ e, decode a = .err e) ∨ ∃ i, decode a = .ok i ∧ i.wellFormed = false)

/-! ### Encodings -/

/-- Derived from R96, R97, R100, R101, R107 and the STATE_DISPATCH rows: a few words of the table. The table
gives no port with its words; that the port follows from the word's width is the model's choice (log 2,
DESIGN CHOICE). -/
def Obligations.TableWordsDecodeToTheirRows : Prop :=
  decodeTableWord 32 0x75650001 = some (.fReq4 1) ∧
    decodeTableWord 48 0x75650001D3CB = some (.fReq6 1) ∧
    decodeTableWord 72 0x7565000102610A9924 = some (.fUdata 1 [0x61, 0x0A]) ∧
    decodeTableWord 32 0x10101010 = some .fTerm ∧
    decodeTableWord 16 0x0012 = some (.startDl true .field) ∧
    decodeTableWord 16 0x0041 = some (.cmdReserved 0x0041) ∧
    decodeTableWord 8 0x03 = some .dlReq ∧ decodeTableWord 8 0x0D = some .dlDone

/-- Derived from R90 to R110: decoding what the encoder wrote gives the operation back. -/
def Obligations.DecodeInvertsEncode : Prop :=
  ∀ (i : Instr) (a : Access), i.wellFormed = true → encode i = some a → decode a = .ok i

/-- Derived from R106, R107, R109 and R271: the command words in numbers; every 16-bit word is the word of
the command it decodes to, and what it decodes to is well-formed; a host read of register n decodes to an
operation that is RDREG n in every state, a host write of v to one that is WRREG n, v (log 2 for the row). -/
def Obligations.EveryCommandWordHasOneMeaning : Prop :=
  (decode (.hostWrite 0 0x0000) = .ok .nop ∧ decode (.hostWrite 0 0x0001) = .ok .startUl ∧
    decode (.hostWrite 0 0x0002) = .ok (.startDl false .field) ∧
    decode (.hostWrite 0 0x0012) = .ok (.startDl true .field) ∧
    decode (.hostWrite 0 0x0022) = .ok (.startDl false .text) ∧
    decode (.hostWrite 0 0x0032) = .ok (.startDl true .text) ∧
    decode (.hostWrite 0 0x0003) = .ok .cancel ∧ decode (.hostWrite 0 0x0004) = .ok .abortProto ∧
    decode (.hostWrite 0 0x0005) = .ok .clear ∧ decode (.hostWrite 0 0x0006) = .ok .crcClr) ∧
  (∀ w : Word, commandWord (commandOf w) = w ∧
    decode (.hostWrite 0 w.toNat) = .ok (instrOfCommand (commandOf w)) ∧
    (instrOfCommand (commandOf w)).wellFormed = true ∧
    (reservedWord w → decode (.hostWrite 0 w.toNat) = .ok (.cmdReserved w))) ∧
  (∀ n : Nat, ∃ i, decode (.hostRead n) = .ok i ∧ i.wellFormed = true ∧
    ∀ s : State, exec i s = exec (.rdreg n) s) ∧
  ∀ n v : Nat, ∃ i, decode (.hostWrite n v) = .ok i ∧ i.wellFormed = true ∧
    ∀ s : State, exec i s = exec (.wrreg n v) s

/-! ### Whole-machine rules -/

/-- Derived from R25, R27, R29, R33, R70, R205 and R236: every step keeps what ties the session's registers
together (SessionInv of Safety.lean). -/
def Obligations.EveryStepKeepsTheSessionInvariant : Prop :=
  ∀ s t : State, SessionInv s → step s = .next t → SessionInv t

/-- Derived from R60, R67 and R69: every step keeps the buffers inside their bounds (BufferInv). -/
def Obligations.EveryStepKeepsTheBufferBounds : Prop :=
  ∀ s t : State, BufferInv s → step s = .next t → BufferInv t

/-- Derived from R44: both invariants hold after reset. -/
def Obligations.ResetMeetsBothInvariants : Prop :=
  SessionInv State.reset ∧ BufferInv State.reset

/-- Derived from R307: TERMINATED and FAILED are left only by CLEAR or reset, and for IDLE. -/
def Obligations.TerminalStatesAreLeftOnlyByClearOrReset : Prop :=
  ∀ s t : State, s.ended → step s = .next t → t.phase ≠ s.phase →
    t.phase = .idle ∧
      (comesNext s .hwReset ∨ comesNext s (.access (.hostWrite 0 0x0005)))

/-- Derived from R24 and R22: SEQ moves by exactly one and only when a poll accepts a frame that carries it,
is set to 1 by the word of a START command, and to 0 by the word of CLEAR or by reset. -/
def Obligations.CursorAdvancesOnlyOnAcceptedFrames : Prop :=
  ∀ s t : State, step s = .next t →
    t.seq = s.seq ∨ ∃ e, comesNext s e ∧
      ((t.seq.toNat = s.seq.toNat + 1 ∧
          ((s.phase = .awaitingAck ∧ sequencerEvent 2 e ∧ decAck s.rxb s.seq = .ok) ∨
            (s.phase = .awaitingReply ∧ sequencerEvent 4 e ∧
              ∃ n p, decReply s.rxb s.seq = .ok n p))) ∨
        (t.seq = 1 ∧ s.phase = .idle ∧ t.phase ≠ .idle ∧
          ((e = .access (.hostWrite 0 0x0001) ∧ t.mode = .upload) ∨
            ∃ w ∈ startDownloadWords, e = .access (.hostWrite 0 w) ∧ t.mode = .download)) ∨
        (t.seq = 0 ∧ t.phase = .idle ∧ (e = .hwReset ∨ e = .access (.hostWrite 0 0x0005))))

/-- Derived from R205 (c): PROGRESS of an upload never falls. -/
def Obligations.UploadProgressNeverFalls : Prop :=
  ∀ s t : State, SessionInv s → step s = .next t → s.mode = .upload →
    (s.phase = .sending ∨ s.phase = .awaitingAck ∨ s.phase = .done ∨ s.phase = .terminated) →
    t.phase ≠ .idle → s.progress.toNat ≤ t.progress.toNat

/-- Derived from R37 and R38: OUT and LOG only grow, but for a reset and for the START_DL that empties LOG. -/
def Obligations.HistoriesOnlyGrow : Prop :=
  ∀ s t : State, step s = .next t → ¬ comesNext s .hwReset →
    s.out <+: t.out ∧
      (s.log <+: t.log ∨
        (t.log = [] ∧ s.phase = .idle ∧
          ∃ w ∈ startDownloadWords, comesNext s (.access (.hostWrite 0 w))))

/-- Derived from R158, R76 and R306: a retry writes the identical frame, whatever arrived that was not
accepted and whatever became of SRC, and leaves SEQ and PROGRESS. -/
def Obligations.RetryWritesTheIdenticalFrame : Prop :=
  (∀ (s : State) (e : FrameError) (bytes : Bytes) (lines : List Bytes),
    s.phase = .sending → s.cancelPend = false → s.chan = .ok → decAck bytes s.seq = .err e →
    ∃ a b c frame,
      exec .ulSend s = .next a ∧ exec .ulPoll { a with rxb := bytes, src := lines } = .next b ∧
        exec .ulSend b = .next c ∧ a.out = s.out ++ [.tx frame] ∧
        c.out = s.out ++ [.tx frame, .tx frame] ∧ c.seq = s.seq ∧ c.progress = s.progress) ∧
  ∀ (s : State) (e : FrameError) (bytes : Bytes),
    s.phase = .requesting → s.cancelPend = false → s.chan = .ok → decReply bytes s.seq = .err e →
    ∃ a b c frame,
      exec .dlReq s = .next a ∧ exec .dlPoll { a with rxb := bytes } = .next b ∧
        exec .dlReq b = .next c ∧ a.out = s.out ++ [.tx frame] ∧
        c.out = s.out ++ [.tx frame, .tx frame] ∧ c.seq = s.seq ∧ c.progress = s.progress

/-- Derived from R200 to R205 and R342: with a channel that takes every write and a link that acknowledges
each data frame at once, an upload of any length ends in TERMINATED with one data frame for each line and
one marker written. -/
def Obligations.UploadCompletesWithPromptAcks : Prop :=
  ∀ (s : State) (n : Nat) (rest : List Event),
    s.phase = .sending → s.mode = .upload → s.seq = 1 → s.total.toNat = n → 1 ≤ n →
    s.cancelPend = false → s.lineValid = false → s.chan = .ok → s.rxbCap = none → s.rxb = [] →
    s.txp.wf = true → s.agenda = promptAcks n ++ rest →
    ∃ t, Sys2Proof.core.run (3 * n + 1) s = .next t ∧
      t.phase = .terminated ∧ t.progress = 100 ∧ t.seq = s.total ∧ t.rxb = [] ∧ t.agenda = rest ∧
      t.out = s.out ++
        (List.range n).map (fun k =>
          .tx (dataFrame (BitVec.ofNat 16 (k + 1)) (srcLine (BitVec.ofNat 16 (k + 1)) s))) ++
        [.tx marker]

/-- Derived from R230 to R237 and R342: with a channel that takes every write and a link that answers each
request at once, a download of any length ends in TERMINATED with exactly the device's lines in LOG. -/
def Obligations.DownloadCompletesWithPromptReplies : Prop :=
  ∀ (s : State) (lines : List Bytes) (rest : List Event),
    s.phase = .requesting → s.mode = .download → s.seq = 1 → 1 ≤ lines.length →
    lines.length ≤ 65535 → (∀ l ∈ lines, 1 ≤ l.length ∧ l.length ≤ 255) →
    (s.countSrc = .text → s.total.toNat = lines.length) →
    s.cancelPend = false → s.chan = .ok → s.rxbCap = none → s.rxb = [] → s.log = [] →
    s.agenda = promptReplies lines ++ rest →
    ∃ t, Sys2Proof.core.run (3 * lines.length + 1) s = .next t ∧
      t.phase = .terminated ∧ t.progress = 100 ∧ t.seq.toNat = lines.length ∧ t.log = lines ∧
      t.rxb = [] ∧ t.agenda = rest ∧
      t.out = s.out ++
        (List.range lines.length).map (fun k =>
          .tx (requestFrame (BitVec.ofNat 16 (k + 1)) s.reqCrc)) ++
        [.tx marker, .close]
end

