-- ==== Sys2Proof/Laws/Decode.lean ====
section
/-! SUPPORT. What an access can select. -/

namespace Sys2Proof

/-- A checked frame that is accepted is the one asked for. -/
theorem checkedFrame_ok {bs : Bytes} {len : Nat} {i j : Instr} (h : checkedFrame bs len i = .ok j) :
    j = i ∧ opensWithSync bs = true ∧ bs.length = len ∧ trailerRight bs = true := by
  unfold checkedFrame at h
  by_cases h1 : opensWithSync bs = true
  · rw [if_neg (by simp [h1])] at h
    by_cases h2 : bs.length = len
    · rw [if_neg (by simp [h2])] at h
      by_cases h3 : trailerRight bs = true
      · rw [if_neg (by simp [h3])] at h
        injection h with h
        exact ⟨h.symm, h1, h2, h3⟩
      · rw [if_pos (by simpa using h3)] at h
        cases h
    · rw [if_pos h2] at h
      cases h
  · rw [if_pos (by simpa using h1)] at h
    cases h

/-- The operations a command word selects have an access. -/
theorem encode_instrOfCommand_ne_none (c : Command) : encode (instrOfCommand c) ≠ none := by
  cases c <;> simp [instrOfCommand, encode]

/-- No access selects one of the five rows that have none (log 14). -/
theorem encode_ne_none_of_decode {a : Access} {i : Instr} (h : decode a = .ok i) : encode i ≠ none := by
  cases a <;> simp only [decode] at h
  case dispatch st =>
    unfold decodeDispatch at h
    split_ifs at h <;> cases h <;> simp [encode]
  case hostRead n =>
    injection h with h
    subst h
    unfold decodeRead
    split_ifs <;> simp [encode]
  case hostWrite n v =>
    injection h with h
    subst h
    unfold decodeWrite
    split_ifs
    · simp [encode]
    · split
      · exact encode_instrOfCommand_ne_none _
      all_goals simp [encode]
  case hostSend m bs =>
    unfold decodeHostSend at h
    split at h
    · cases h; simp [encode]
    · cases h; simp [encode]
    · cases h; simp [encode]
    · split at h
      · cases h; simp [encode]
      · rw [(checkedFrame_ok h).1]; simp [encode]
    · split at h
      · cases h; simp [encode]
      · unfold decodeRequest at h
        split at h
        · cases h; simp [encode]
        · rw [(checkedFrame_ok h).1]; simp [encode]
  case hostRaw bs => cases h; simp [encode]
  case hostDrain => cases h; simp [encode]
  case deviceSend m bs =>
    cases m
    · rw [(checkedFrame_ok h).1]; simp [encode]
    · rw [(checkedFrame_ok h).1]; simp [encode]
  case byteArrives b => cases h; simp [encode]
  case evaluate j =>
    cases hj : isFunctionRow j <;> rw [hj] at h
    · cases h
    · simp only [if_true] at h
      injection h with h
      subst h
      cases j <;> first | (cases hj; done) | simp [encode]

end Sys2Proof
end

