-- ==== Sys2Proof/Laws/Frames.lean ====
section
/-! SUPPORT. The small lemmas of the frame codec: fields, lengths, and the trailer of a built frame. -/

namespace Sys2Proof.Machine

/-! ### Fields -/

theorem hiByte_toNat (w : Word) : (hiByte w).toNat = w.toNat / 256 := by
  have := w.isLt
  simp only [hiByte, BitVec.extractLsb'_toNat, Nat.shiftRight_eq_div_pow]
  omega

theorem loByte_toNat (w : Word) : (loByte w).toNat = w.toNat % 256 := by
  simp [loByte, BitVec.extractLsb'_toNat]

/-- A 16-bit field is rebuilt from its two bytes (R61). -/
@[simp] theorem joinBytes_hi_lo (w : Word) : joinBytes (hiByte w) (loByte w) = w := by
  apply BitVec.eq_of_toNat_eq
  have := w.isLt
  simp only [joinBytes, BitVec.toNat_ofNat, hiByte_toNat, loByte_toNat]
  omega

theorem crcHi_toNat (bs : Bytes) : (crcHi bs).toNat = (crc16 bs).toNat / 256 := by
  have := (crc16 bs).isLt
  simp only [crcHi, BitVec.toNat_ofNat]
  omega

theorem crcLo_toNat (bs : Bytes) : (crcLo bs).toNat = (crc16 bs).toNat % 256 := by
  simp [crcLo, BitVec.toNat_ofNat]

@[simp] theorem joinBytes_crc (bs : Bytes) : joinBytes (crcHi bs) (crcLo bs) = crc16 bs := by
  apply BitVec.eq_of_toNat_eq
  have := (crc16 bs).isLt
  simp only [joinBytes, BitVec.toNat_ofNat, crcHi_toNat, crcLo_toNat]
  omega

theorem lenByte_toNat {p : Bytes} (h : p.length ≤ Config.lenMax) : (lenByte p).toNat = p.length := by
  simp only [Config.lenMax] at h
  simp only [lenByte, BitVec.toNat_ofNat]
  omega

/-! ### Lengths -/

@[simp] theorem frameHead_length (seq : Word) : (frameHead seq).length = 4 := rfl

@[simp] theorem encTail_length (h : Bytes) : (encTail h).length = h.length + 2 := by simp [encTail]

@[simp] theorem encAck_length (seq : Word) : (encAck seq).length = 6 := by simp [encAck]

@[simp] theorem encUdata_length (seq : Word) (p : Bytes) : (encUdata seq p).length = 7 + p.length := by
  simp [encUdata]; omega

@[simp] theorem encReply_length (seq total : Word) (p : Bytes) :
    (encReply seq total p).length = 9 + p.length := by
  simp [encReply]; omega

/-! ### The trailer -/

theorem wordAt_append {h t : Bytes} {a b : Byte} {n : Nat} (hn : h.length = n) :
    wordAt (h ++ a :: b :: t) n = joinBytes a b := by
  subst hn
  simp [wordAt, byteAt, List.getD_eq_getElem?_getD]

/-- The trailer of a built frame is the checksum of what stands before it (R95). -/
@[simp] theorem wordAt_encTail (h : Bytes) : wordAt (encTail h) h.length = crc16 h := by
  rw [encTail, wordAt_append rfl, joinBytes_crc]

@[simp] theorem take_encTail (h : Bytes) : (encTail h).take h.length = h := by simp [encTail]

end Sys2Proof.Machine
end

