-- ==== Sys2Proof/Laws/Memory.lean ====
section
/-! SUPPORT. The laws of TXP's cells: read after write, and the canonical form kept by every operation. -/

namespace Sys2Proof.Machine

@[simp] theorem Memory.read_nil (a : Nat) : Memory.read [] a = Memory.unlisted := rfl

theorem Memory.read_cons_cell (c : Host.Cell) (m : Memory) (a : Nat) :
    Memory.read (c :: m) a = if c.1 = a then c.2 else Memory.read m a := rfl

/-- Every index below `lo` of cells in canonical form from `lo` on is unlisted. -/
theorem Memory.read_below {lo : Nat} {m : Memory} (h : Memory.wfFrom lo m = true) {a : Nat}
    (ha : a < lo) : Memory.read m a = Memory.unlisted := by
  induction m generalizing lo with
  | nil => rfl
  | cons c rest ih =>
    simp only [Memory.wfFrom, Bool.and_eq_true, decide_eq_true_eq] at h
    rw [Memory.read_cons_cell, if_neg (by omega)]
    exact ih h.2 (by omega)

theorem Memory.wfFrom_mono {lo hi : Nat} (hle : lo ≤ hi) {m : Memory} (h : Memory.wfFrom hi m = true) :
    Memory.wfFrom lo m = true := by
  cases m with
  | nil => rfl
  | cons c rest =>
    simp only [Memory.wfFrom, Bool.and_eq_true, decide_eq_true_eq] at h ⊢
    exact ⟨⟨⟨by omega, h.1.1.2⟩, h.1.2⟩, h.2⟩

theorem Memory.read_cons {lo : Nat} {a : Nat} {b : Byte} {m : Memory}
    (h : Memory.wfFrom (a + 1) m = true) (_ : lo ≤ a) (x : Nat) :
    Memory.read (Memory.cons a b m) x = if x = a then b else Memory.read m x := by
  unfold Memory.cons
  split
  · rename_i hb
    split
    · rename_i hx
      rw [hb, Memory.read_below h (by omega)]
    · rfl
  · rw [Memory.read_cons_cell]
    simp only [eq_comm]

theorem Memory.wfFrom_cons {lo a : Nat} {b : Byte} {m : Memory} (hlo : lo ≤ a) (ha : a < Memory.size)
    (h : Memory.wfFrom (a + 1) m = true) : Memory.wfFrom lo (Memory.cons a b m) = true := by
  unfold Memory.cons
  split
  · exact Memory.wfFrom_mono (by omega) h
  · rename_i hb
    simp [Memory.wfFrom, hlo, ha, hb, h]

/-- Writing inside TXP keeps the canonical form. -/
theorem Memory.write_wfFrom {lo a : Nat} {b : Byte} {m : Memory} (hlo : lo ≤ a) (ha : a < Memory.size)
    (h : Memory.wfFrom lo m = true) : Memory.wfFrom lo (Memory.write m a b) = true := by
  induction m generalizing lo with
  | nil => exact Memory.wfFrom_cons hlo ha rfl
  | cons c rest ih =>
    have hc := h
    simp only [Memory.wfFrom, Bool.and_eq_true, decide_eq_true_eq] at hc
    unfold Memory.write
    split
    · refine Memory.wfFrom_cons hlo ha ?_
      simp only [Memory.wfFrom, Bool.and_eq_true, decide_eq_true_eq]
      exact ⟨⟨⟨by omega, hc.1.1.2⟩, hc.1.2⟩, hc.2⟩
    · split
      · rename_i heq
        subst heq
        exact Memory.wfFrom_cons hlo ha hc.2
      · simp only [Memory.wfFrom, Bool.and_eq_true, decide_eq_true_eq]
        exact ⟨hc.1, ih (by omega) hc.2⟩

theorem Memory.write_wf {m : Memory} (h : m.wf = true) {a : Nat} (ha : a < Memory.size) (b : Byte) :
    (Memory.write m a b).wf = true :=
  Memory.write_wfFrom (Nat.zero_le a) ha h

/-- Read after write. -/
theorem Memory.read_write_from {lo a : Nat} {b : Byte} {m : Memory} (hlo : lo ≤ a)
    (h : Memory.wfFrom lo m = true) (x : Nat) :
    Memory.read (Memory.write m a b) x = if x = a then b else Memory.read m x := by
  induction m generalizing lo with
  | nil => exact Memory.read_cons (lo := lo) rfl hlo x
  | cons c rest ih =>
    have hc := h
    simp only [Memory.wfFrom, Bool.and_eq_true, decide_eq_true_eq] at hc
    unfold Memory.write
    split
    · refine Memory.read_cons (lo := lo) ?_ hlo x
      simp only [Memory.wfFrom, Bool.and_eq_true, decide_eq_true_eq]
      exact ⟨⟨⟨by omega, hc.1.1.2⟩, hc.1.2⟩, hc.2⟩
    · split
      · rename_i heq
        rw [Memory.read_cons (lo := lo) (heq ▸ hc.2) hlo x, Memory.read_cons_cell]
        split
        · rfl
        · rw [if_neg (by omega)]
      · rename_i hne
        rw [Memory.read_cons_cell, Memory.read_cons_cell, ih (by omega) hc.2]
        split
        · rename_i hcx
          rw [if_neg (by omega)]
        · rfl

theorem Memory.read_write {m : Memory} (h : m.wf = true) (a : Nat) (b : Byte) (x : Nat) :
    Memory.read (Memory.write m a b) x = if x = a then b else Memory.read m x :=
  Memory.read_write_from (Nat.zero_le a) h x

theorem Memory.writeAll_wf {m : Memory} (h : m.wf = true) {a : Nat} {bs : Bytes}
    (ha : a + bs.length ≤ Memory.size) : (Memory.writeAll m a bs).wf = true := by
  induction bs generalizing m a with
  | nil => exact h
  | cons b rest ih =>
    simp only [List.length_cons] at ha
    exact ih (Memory.write_wf h (by omega) b) (by omega)

/-- Read after a write of several bytes. -/
theorem Memory.read_writeAll {m : Memory} (h : m.wf = true) {a : Nat} {bs : Bytes}
    (ha : a + bs.length ≤ Memory.size) (x : Nat) :
    Memory.read (Memory.writeAll m a bs) x =
      if a ≤ x ∧ x < a + bs.length then bs.getD (x - a) 0 else Memory.read m x := by
  induction bs generalizing m a with
  | nil =>
    rw [if_neg (by simp)]
    rfl
  | cons b rest ih =>
    simp only [List.length_cons] at ha
    rw [Memory.writeAll, ih (Memory.write_wf h (by omega) b) (by omega), Memory.read_write h]
    rcases Nat.lt_trichotomy x a with hx | hx | hx
    · rw [if_neg (by omega), if_neg (by omega), if_neg (by omega)]
    · subst hx
      rw [if_neg (by omega), if_pos rfl, if_pos (by simp)]
      simp
    · by_cases hin : x < a + 1 + rest.length
      · rw [if_pos (by omega), if_pos (by simp; omega)]
        obtain ⟨d, rfl⟩ : ∃ d, x = a + 1 + d := ⟨x - (a + 1), by omega⟩
        rw [show a + 1 + d - (a + 1) = d by omega, show a + 1 + d - a = d + 1 by omega]
        simp
      · rw [if_neg (by omega), if_neg (by omega), if_neg (by simp; omega)]

@[simp] theorem Memory.length_readAll (m : Memory) (a n : Nat) : (Memory.readAll m a n).length = n := by
  induction n generalizing a with
  | zero => rfl
  | succ n ih => simp [Memory.readAll, ih]

theorem Memory.getElem?_readAll (m : Memory) (a n i : Nat) (hi : i < n) :
    (Memory.readAll m a n)[i]? = some (Memory.read m (a + i)) := by
  induction n generalizing a i with
  | zero => omega
  | succ n ih =>
    cases i with
    | zero => simp [Memory.readAll]
    | succ i =>
      rw [Memory.readAll, List.getElem?_cons_succ, ih (a + 1) i (by omega)]
      congr 2
      omega

/-- What was written is read back. -/
theorem Memory.readAll_writeAll {m : Memory} (h : m.wf = true) {a : Nat} {bs : Bytes}
    (ha : a + bs.length ≤ Memory.size) :
    Memory.readAll (Memory.writeAll m a bs) a bs.length = bs := by
  apply List.ext_getElem?
  intro i
  by_cases hi : i < bs.length
  · rw [Memory.getElem?_readAll _ _ _ _ hi, Memory.read_writeAll h ha, if_pos (by omega)]
    simp [hi]
  · rw [List.getElem?_eq_none (by simp; omega), List.getElem?_eq_none (by omega)]

end Sys2Proof.Machine
end

