-- ==== Sys2Proof/Laws/State.lean ====
section
/-! SUPPORT. One lemma per field for every named update of the state: what the update writes, and that it
leaves every other field. -/

namespace Sys2Proof.Machine

section
variable (s : State)

/-! ### setRet -/

@[simp] theorem setRet_phase (r : Ret) : (setRet r s).phase = s.phase := rfl
@[simp] theorem setRet_mode (r : Ret) : (setRet r s).mode = s.mode := rfl
@[simp] theorem setRet_reqCrc (r : Ret) : (setRet r s).reqCrc = s.reqCrc := rfl
@[simp] theorem setRet_countSrc (r : Ret) : (setRet r s).countSrc = s.countSrc := rfl
@[simp] theorem setRet_totalValid (r : Ret) : (setRet r s).totalValid = s.totalValid := rfl
@[simp] theorem setRet_cancelPend (r : Ret) : (setRet r s).cancelPend = s.cancelPend := rfl
@[simp] theorem setRet_cmdErr (r : Ret) : (setRet r s).cmdErr = s.cmdErr := rfl
@[simp] theorem setRet_failReason (r : Ret) : (setRet r s).failReason = s.failReason := rfl
@[simp] theorem setRet_seq (r : Ret) : (setRet r s).seq = s.seq := rfl
@[simp] theorem setRet_total (r : Ret) : (setRet r s).total = s.total := rfl
@[simp] theorem setRet_progress (r : Ret) : (setRet r s).progress = s.progress := rfl
@[simp] theorem setRet_lastErr (r : Ret) : (setRet r s).lastErr = s.lastErr := rfl
@[simp] theorem setRet_trig (r : Ret) : (setRet r s).trig = s.trig := rfl
@[simp] theorem setRet_crcAcc (r : Ret) : (setRet r s).crcAcc = s.crcAcc := rfl
@[simp] theorem setRet_txLen (r : Ret) : (setRet r s).txLen = s.txLen := rfl
@[simp] theorem setRet_txp (r : Ret) : (setRet r s).txp = s.txp := rfl
@[simp] theorem setRet_lineValid (r : Ret) : (setRet r s).lineValid = s.lineValid := rfl
@[simp] theorem setRet_rxb (r : Ret) : (setRet r s).rxb = s.rxb := rfl
@[simp] theorem setRet_out (r : Ret) : (setRet r s).out = s.out := rfl
@[simp] theorem setRet_log (r : Ret) : (setRet r s).log = s.log := rfl
@[simp] theorem setRet_src (r : Ret) : (setRet r s).src = s.src := rfl
@[simp] theorem setRet_srcEpoch (r : Ret) : (setRet r s).srcEpoch = s.srcEpoch := rfl
@[simp] theorem setRet_rxbCap (r : Ret) : (setRet r s).rxbCap = s.rxbCap := rfl
@[simp] theorem setRet_chan (r : Ret) : (setRet r s).chan = s.chan := rfl
@[simp] theorem setRet_agenda (r : Ret) : (setRet r s).agenda = s.agenda := rfl
@[simp] theorem setRet_standing (r : Ret) : (setRet r s).standing = s.standing := rfl
@[simp] theorem setRet_ret (r : Ret) : (setRet r s).ret = r := rfl

/-! ### refuse -/

@[simp] theorem refuse_phase : (refuse s).phase = s.phase := rfl
@[simp] theorem refuse_mode : (refuse s).mode = s.mode := rfl
@[simp] theorem refuse_reqCrc : (refuse s).reqCrc = s.reqCrc := rfl
@[simp] theorem refuse_countSrc : (refuse s).countSrc = s.countSrc := rfl
@[simp] theorem refuse_totalValid : (refuse s).totalValid = s.totalValid := rfl
@[simp] theorem refuse_cancelPend : (refuse s).cancelPend = s.cancelPend := rfl
@[simp] theorem refuse_cmdErr : (refuse s).cmdErr = true := rfl
@[simp] theorem refuse_failReason : (refuse s).failReason = s.failReason := rfl
@[simp] theorem refuse_seq : (refuse s).seq = s.seq := rfl
@[simp] theorem refuse_total : (refuse s).total = s.total := rfl
@[simp] theorem refuse_progress : (refuse s).progress = s.progress := rfl
@[simp] theorem refuse_lastErr : (refuse s).lastErr = s.lastErr := rfl
@[simp] theorem refuse_trig : (refuse s).trig = s.trig := rfl
@[simp] theorem refuse_crcAcc : (refuse s).crcAcc = s.crcAcc := rfl
@[simp] theorem refuse_txLen : (refuse s).txLen = s.txLen := rfl
@[simp] theorem refuse_txp : (refuse s).txp = s.txp := rfl
@[simp] theorem refuse_lineValid : (refuse s).lineValid = s.lineValid := rfl
@[simp] theorem refuse_rxb : (refuse s).rxb = s.rxb := rfl
@[simp] theorem refuse_out : (refuse s).out = s.out := rfl
@[simp] theorem refuse_log : (refuse s).log = s.log := rfl
@[simp] theorem refuse_src : (refuse s).src = s.src := rfl
@[simp] theorem refuse_srcEpoch : (refuse s).srcEpoch = s.srcEpoch := rfl
@[simp] theorem refuse_rxbCap : (refuse s).rxbCap = s.rxbCap := rfl
@[simp] theorem refuse_chan : (refuse s).chan = s.chan := rfl
@[simp] theorem refuse_agenda : (refuse s).agenda = s.agenda := rfl
@[simp] theorem refuse_standing : (refuse s).standing = s.standing := rfl
@[simp] theorem refuse_ret : (refuse s).ret = s.ret := rfl

/-! ### fail -/

@[simp] theorem fail_phase (x : FatalReason) : (fail x s).phase = .failed := rfl
@[simp] theorem fail_mode (x : FatalReason) : (fail x s).mode = s.mode := rfl
@[simp] theorem fail_reqCrc (x : FatalReason) : (fail x s).reqCrc = s.reqCrc := rfl
@[simp] theorem fail_countSrc (x : FatalReason) : (fail x s).countSrc = s.countSrc := rfl
@[simp] theorem fail_totalValid (x : FatalReason) : (fail x s).totalValid = s.totalValid := rfl
@[simp] theorem fail_cancelPend (x : FatalReason) : (fail x s).cancelPend = s.cancelPend := rfl
@[simp] theorem fail_cmdErr (x : FatalReason) : (fail x s).cmdErr = s.cmdErr := rfl
@[simp] theorem fail_failReason (x : FatalReason) : (fail x s).failReason = some x := rfl
@[simp] theorem fail_seq (x : FatalReason) : (fail x s).seq = s.seq := rfl
@[simp] theorem fail_total (x : FatalReason) : (fail x s).total = s.total := rfl
@[simp] theorem fail_progress (x : FatalReason) : (fail x s).progress = s.progress := rfl
@[simp] theorem fail_lastErr (x : FatalReason) : (fail x s).lastErr = s.lastErr := rfl
@[simp] theorem fail_trig (x : FatalReason) : (fail x s).trig = s.trig := rfl
@[simp] theorem fail_crcAcc (x : FatalReason) : (fail x s).crcAcc = s.crcAcc := rfl
@[simp] theorem fail_txLen (x : FatalReason) : (fail x s).txLen = s.txLen := rfl
@[simp] theorem fail_txp (x : FatalReason) : (fail x s).txp = s.txp := rfl
@[simp] theorem fail_lineValid (x : FatalReason) : (fail x s).lineValid = s.lineValid := rfl
@[simp] theorem fail_rxb (x : FatalReason) : (fail x s).rxb = s.rxb := rfl
@[simp] theorem fail_out (x : FatalReason) : (fail x s).out = s.out := rfl
@[simp] theorem fail_log (x : FatalReason) : (fail x s).log = s.log := rfl
@[simp] theorem fail_src (x : FatalReason) : (fail x s).src = s.src := rfl
@[simp] theorem fail_srcEpoch (x : FatalReason) : (fail x s).srcEpoch = s.srcEpoch := rfl
@[simp] theorem fail_rxbCap (x : FatalReason) : (fail x s).rxbCap = s.rxbCap := rfl
@[simp] theorem fail_chan (x : FatalReason) : (fail x s).chan = s.chan := rfl
@[simp] theorem fail_agenda (x : FatalReason) : (fail x s).agenda = s.agenda := rfl
@[simp] theorem fail_standing (x : FatalReason) : (fail x s).standing = s.standing := rfl
@[simp] theorem fail_ret (x : FatalReason) : (fail x s).ret = s.ret := rfl

/-! ### retry -/

@[simp] theorem retry_phase (e : FrameError) (p : Phase) : (retry e p s).phase = p := rfl
@[simp] theorem retry_mode (e : FrameError) (p : Phase) : (retry e p s).mode = s.mode := rfl
@[simp] theorem retry_reqCrc (e : FrameError) (p : Phase) : (retry e p s).reqCrc = s.reqCrc := rfl
@[simp] theorem retry_countSrc (e : FrameError) (p : Phase) : (retry e p s).countSrc = s.countSrc := rfl
@[simp] theorem retry_totalValid (e : FrameError) (p : Phase) : (retry e p s).totalValid = s.totalValid := rfl
@[simp] theorem retry_cancelPend (e : FrameError) (p : Phase) : (retry e p s).cancelPend = s.cancelPend := rfl
@[simp] theorem retry_cmdErr (e : FrameError) (p : Phase) : (retry e p s).cmdErr = s.cmdErr := rfl
@[simp] theorem retry_failReason (e : FrameError) (p : Phase) : (retry e p s).failReason = s.failReason := rfl
@[simp] theorem retry_seq (e : FrameError) (p : Phase) : (retry e p s).seq = s.seq := rfl
@[simp] theorem retry_total (e : FrameError) (p : Phase) : (retry e p s).total = s.total := rfl
@[simp] theorem retry_progress (e : FrameError) (p : Phase) : (retry e p s).progress = s.progress := rfl
@[simp] theorem retry_lastErr (e : FrameError) (p : Phase) : (retry e p s).lastErr = some e := rfl
@[simp] theorem retry_trig (e : FrameError) (p : Phase) : (retry e p s).trig = s.trig := rfl
@[simp] theorem retry_crcAcc (e : FrameError) (p : Phase) : (retry e p s).crcAcc = s.crcAcc := rfl
@[simp] theorem retry_txLen (e : FrameError) (p : Phase) : (retry e p s).txLen = s.txLen := rfl
@[simp] theorem retry_txp (e : FrameError) (p : Phase) : (retry e p s).txp = s.txp := rfl
@[simp] theorem retry_lineValid (e : FrameError) (p : Phase) : (retry e p s).lineValid = s.lineValid := rfl
@[simp] theorem retry_rxb (e : FrameError) (p : Phase) : (retry e p s).rxb = s.rxb := rfl
@[simp] theorem retry_out (e : FrameError) (p : Phase) : (retry e p s).out = s.out := rfl
@[simp] theorem retry_log (e : FrameError) (p : Phase) : (retry e p s).log = s.log := rfl
@[simp] theorem retry_src (e : FrameError) (p : Phase) : (retry e p s).src = s.src := rfl
@[simp] theorem retry_srcEpoch (e : FrameError) (p : Phase) : (retry e p s).srcEpoch = s.srcEpoch := rfl
@[simp] theorem retry_rxbCap (e : FrameError) (p : Phase) : (retry e p s).rxbCap = s.rxbCap := rfl
@[simp] theorem retry_chan (e : FrameError) (p : Phase) : (retry e p s).chan = s.chan := rfl
@[simp] theorem retry_agenda (e : FrameError) (p : Phase) : (retry e p s).agenda = s.agenda := rfl
@[simp] theorem retry_standing (e : FrameError) (p : Phase) : (retry e p s).standing = s.standing := rfl
@[simp] theorem retry_ret (e : FrameError) (p : Phase) : (retry e p s).ret = s.ret := rfl

/-! ### emit -/

@[simp] theorem emit_phase (e : OutEvent) : (emit e s).phase = s.phase := rfl
@[simp] theorem emit_mode (e : OutEvent) : (emit e s).mode = s.mode := rfl
@[simp] theorem emit_reqCrc (e : OutEvent) : (emit e s).reqCrc = s.reqCrc := rfl
@[simp] theorem emit_countSrc (e : OutEvent) : (emit e s).countSrc = s.countSrc := rfl
@[simp] theorem emit_totalValid (e : OutEvent) : (emit e s).totalValid = s.totalValid := rfl
@[simp] theorem emit_cancelPend (e : OutEvent) : (emit e s).cancelPend = s.cancelPend := rfl
@[simp] theorem emit_cmdErr (e : OutEvent) : (emit e s).cmdErr = s.cmdErr := rfl
@[simp] theorem emit_failReason (e : OutEvent) : (emit e s).failReason = s.failReason := rfl
@[simp] theorem emit_seq (e : OutEvent) : (emit e s).seq = s.seq := rfl
@[simp] theorem emit_total (e : OutEvent) : (emit e s).total = s.total := rfl
@[simp] theorem emit_progress (e : OutEvent) : (emit e s).progress = s.progress := rfl
@[simp] theorem emit_lastErr (e : OutEvent) : (emit e s).lastErr = s.lastErr := rfl
@[simp] theorem emit_trig (e : OutEvent) : (emit e s).trig = s.trig := rfl
@[simp] theorem emit_crcAcc (e : OutEvent) : (emit e s).crcAcc = s.crcAcc := rfl
@[simp] theorem emit_txLen (e : OutEvent) : (emit e s).txLen = s.txLen := rfl
@[simp] theorem emit_txp (e : OutEvent) : (emit e s).txp = s.txp := rfl
@[simp] theorem emit_lineValid (e : OutEvent) : (emit e s).lineValid = s.lineValid := rfl
@[simp] theorem emit_rxb (e : OutEvent) : (emit e s).rxb = s.rxb := rfl
@[simp] theorem emit_out (e : OutEvent) : (emit e s).out = s.out ++ [e] := rfl
@[simp] theorem emit_log (e : OutEvent) : (emit e s).log = s.log := rfl
@[simp] theorem emit_src (e : OutEvent) : (emit e s).src = s.src := rfl
@[simp] theorem emit_srcEpoch (e : OutEvent) : (emit e s).srcEpoch = s.srcEpoch := rfl
@[simp] theorem emit_rxbCap (e : OutEvent) : (emit e s).rxbCap = s.rxbCap := rfl
@[simp] theorem emit_chan (e : OutEvent) : (emit e s).chan = s.chan := rfl
@[simp] theorem emit_agenda (e : OutEvent) : (emit e s).agenda = s.agenda := rfl
@[simp] theorem emit_standing (e : OutEvent) : (emit e s).standing = s.standing := rfl
@[simp] theorem emit_ret (e : OutEvent) : (emit e s).ret = s.ret := rfl

/-! ### closeReq -/

@[simp] theorem closeReq_phase : (closeReq s).phase = s.phase := rfl
@[simp] theorem closeReq_mode : (closeReq s).mode = s.mode := rfl
@[simp] theorem closeReq_reqCrc : (closeReq s).reqCrc = s.reqCrc := rfl
@[simp] theorem closeReq_countSrc : (closeReq s).countSrc = s.countSrc := rfl
@[simp] theorem closeReq_totalValid : (closeReq s).totalValid = s.totalValid := rfl
@[simp] theorem closeReq_cancelPend : (closeReq s).cancelPend = s.cancelPend := rfl
@[simp] theorem closeReq_cmdErr : (closeReq s).cmdErr = s.cmdErr := rfl
@[simp] theorem closeReq_failReason : (closeReq s).failReason = s.failReason := rfl
@[simp] theorem closeReq_seq : (closeReq s).seq = s.seq := rfl
@[simp] theorem closeReq_total : (closeReq s).total = s.total := rfl
@[simp] theorem closeReq_progress : (closeReq s).progress = s.progress := rfl
@[simp] theorem closeReq_lastErr : (closeReq s).lastErr = s.lastErr := rfl
@[simp] theorem closeReq_trig : (closeReq s).trig = s.trig := rfl
@[simp] theorem closeReq_crcAcc : (closeReq s).crcAcc = s.crcAcc := rfl
@[simp] theorem closeReq_txLen : (closeReq s).txLen = s.txLen := rfl
@[simp] theorem closeReq_txp : (closeReq s).txp = s.txp := rfl
@[simp] theorem closeReq_lineValid : (closeReq s).lineValid = s.lineValid := rfl
@[simp] theorem closeReq_rxb : (closeReq s).rxb = s.rxb := rfl
@[simp] theorem closeReq_out : (closeReq s).out = s.out ++ [.close] := rfl
@[simp] theorem closeReq_log : (closeReq s).log = s.log := rfl
@[simp] theorem closeReq_src : (closeReq s).src = s.src := rfl
@[simp] theorem closeReq_srcEpoch : (closeReq s).srcEpoch = s.srcEpoch := rfl
@[simp] theorem closeReq_rxbCap : (closeReq s).rxbCap = s.rxbCap := rfl
@[simp] theorem closeReq_chan : (closeReq s).chan = s.chan := rfl
@[simp] theorem closeReq_agenda : (closeReq s).agenda = s.agenda := rfl
@[simp] theorem closeReq_standing : (closeReq s).standing = s.standing := rfl
@[simp] theorem closeReq_ret : (closeReq s).ret = s.ret := rfl

/-! ### logAppend -/

@[simp] theorem logAppend_phase (p : Bytes) : (logAppend p s).phase = s.phase := rfl
@[simp] theorem logAppend_mode (p : Bytes) : (logAppend p s).mode = s.mode := rfl
@[simp] theorem logAppend_reqCrc (p : Bytes) : (logAppend p s).reqCrc = s.reqCrc := rfl
@[simp] theorem logAppend_countSrc (p : Bytes) : (logAppend p s).countSrc = s.countSrc := rfl
@[simp] theorem logAppend_totalValid (p : Bytes) : (logAppend p s).totalValid = s.totalValid := rfl
@[simp] theorem logAppend_cancelPend (p : Bytes) : (logAppend p s).cancelPend = s.cancelPend := rfl
@[simp] theorem logAppend_cmdErr (p : Bytes) : (logAppend p s).cmdErr = s.cmdErr := rfl
@[simp] theorem logAppend_failReason (p : Bytes) : (logAppend p s).failReason = s.failReason := rfl
@[simp] theorem logAppend_seq (p : Bytes) : (logAppend p s).seq = s.seq := rfl
@[simp] theorem logAppend_total (p : Bytes) : (logAppend p s).total = s.total := rfl
@[simp] theorem logAppend_progress (p : Bytes) : (logAppend p s).progress = s.progress := rfl
@[simp] theorem logAppend_lastErr (p : Bytes) : (logAppend p s).lastErr = s.lastErr := rfl
@[simp] theorem logAppend_trig (p : Bytes) : (logAppend p s).trig = s.trig := rfl
@[simp] theorem logAppend_crcAcc (p : Bytes) : (logAppend p s).crcAcc = s.crcAcc := rfl
@[simp] theorem logAppend_txLen (p : Bytes) : (logAppend p s).txLen = s.txLen := rfl
@[simp] theorem logAppend_txp (p : Bytes) : (logAppend p s).txp = s.txp := rfl
@[simp] theorem logAppend_lineValid (p : Bytes) : (logAppend p s).lineValid = s.lineValid := rfl
@[simp] theorem logAppend_rxb (p : Bytes) : (logAppend p s).rxb = s.rxb := rfl
@[simp] theorem logAppend_out (p : Bytes) : (logAppend p s).out = s.out := rfl
@[simp] theorem logAppend_log (p : Bytes) : (logAppend p s).log = s.log ++ [p] := rfl
@[simp] theorem logAppend_src (p : Bytes) : (logAppend p s).src = s.src := rfl
@[simp] theorem logAppend_srcEpoch (p : Bytes) : (logAppend p s).srcEpoch = s.srcEpoch := rfl
@[simp] theorem logAppend_rxbCap (p : Bytes) : (logAppend p s).rxbCap = s.rxbCap := rfl
@[simp] theorem logAppend_chan (p : Bytes) : (logAppend p s).chan = s.chan := rfl
@[simp] theorem logAppend_agenda (p : Bytes) : (logAppend p s).agenda = s.agenda := rfl
@[simp] theorem logAppend_standing (p : Bytes) : (logAppend p s).standing = s.standing := rfl
@[simp] theorem logAppend_ret (p : Bytes) : (logAppend p s).ret = s.ret := rfl

/-! ### chanDrain -/

@[simp] theorem chanDrain_phase : ((chanDrain s).2).phase = s.phase := rfl
@[simp] theorem chanDrain_mode : ((chanDrain s).2).mode = s.mode := rfl
@[simp] theorem chanDrain_reqCrc : ((chanDrain s).2).reqCrc = s.reqCrc := rfl
@[simp] theorem chanDrain_countSrc : ((chanDrain s).2).countSrc = s.countSrc := rfl
@[simp] theorem chanDrain_totalValid : ((chanDrain s).2).totalValid = s.totalValid := rfl
@[simp] theorem chanDrain_cancelPend : ((chanDrain s).2).cancelPend = s.cancelPend := rfl
@[simp] theorem chanDrain_cmdErr : ((chanDrain s).2).cmdErr = s.cmdErr := rfl
@[simp] theorem chanDrain_failReason : ((chanDrain s).2).failReason = s.failReason := rfl
@[simp] theorem chanDrain_seq : ((chanDrain s).2).seq = s.seq := rfl
@[simp] theorem chanDrain_total : ((chanDrain s).2).total = s.total := rfl
@[simp] theorem chanDrain_progress : ((chanDrain s).2).progress = s.progress := rfl
@[simp] theorem chanDrain_lastErr : ((chanDrain s).2).lastErr = s.lastErr := rfl
@[simp] theorem chanDrain_trig : ((chanDrain s).2).trig = s.trig := rfl
@[simp] theorem chanDrain_crcAcc : ((chanDrain s).2).crcAcc = s.crcAcc := rfl
@[simp] theorem chanDrain_txLen : ((chanDrain s).2).txLen = s.txLen := rfl
@[simp] theorem chanDrain_txp : ((chanDrain s).2).txp = s.txp := rfl
@[simp] theorem chanDrain_lineValid : ((chanDrain s).2).lineValid = s.lineValid := rfl
@[simp] theorem chanDrain_rxb : ((chanDrain s).2).rxb = [] := rfl
@[simp] theorem chanDrain_out : ((chanDrain s).2).out = s.out := rfl
@[simp] theorem chanDrain_log : ((chanDrain s).2).log = s.log := rfl
@[simp] theorem chanDrain_src : ((chanDrain s).2).src = s.src := rfl
@[simp] theorem chanDrain_srcEpoch : ((chanDrain s).2).srcEpoch = s.srcEpoch := rfl
@[simp] theorem chanDrain_rxbCap : ((chanDrain s).2).rxbCap = s.rxbCap := rfl
@[simp] theorem chanDrain_chan : ((chanDrain s).2).chan = s.chan := rfl
@[simp] theorem chanDrain_agenda : ((chanDrain s).2).agenda = s.agenda := rfl
@[simp] theorem chanDrain_standing : ((chanDrain s).2).standing = s.standing := rfl
@[simp] theorem chanDrain_ret : ((chanDrain s).2).ret = s.ret := rfl

/-! ### openUpload -/

@[simp] theorem openUpload_phase : (openUpload s).phase = s.phase := rfl
@[simp] theorem openUpload_mode : (openUpload s).mode = .upload := rfl
@[simp] theorem openUpload_reqCrc : (openUpload s).reqCrc = false := rfl
@[simp] theorem openUpload_countSrc : (openUpload s).countSrc = .field := rfl
@[simp] theorem openUpload_totalValid : (openUpload s).totalValid = true := rfl
@[simp] theorem openUpload_cancelPend : (openUpload s).cancelPend = false := rfl
@[simp] theorem openUpload_cmdErr : (openUpload s).cmdErr = s.cmdErr := rfl
@[simp] theorem openUpload_failReason : (openUpload s).failReason = none := rfl
@[simp] theorem openUpload_seq : (openUpload s).seq = Config.seqFirst := rfl
@[simp] theorem openUpload_total : (openUpload s).total = s.total := rfl
@[simp] theorem openUpload_progress : (openUpload s).progress = 0 := rfl
@[simp] theorem openUpload_lastErr : (openUpload s).lastErr = none := rfl
@[simp] theorem openUpload_trig : (openUpload s).trig = s.trig := rfl
@[simp] theorem openUpload_crcAcc : (openUpload s).crcAcc = s.crcAcc := rfl
@[simp] theorem openUpload_txLen : (openUpload s).txLen = s.txLen := rfl
@[simp] theorem openUpload_txp : (openUpload s).txp = s.txp := rfl
@[simp] theorem openUpload_lineValid : (openUpload s).lineValid = false := rfl
@[simp] theorem openUpload_rxb : (openUpload s).rxb = s.rxb := rfl
@[simp] theorem openUpload_out : (openUpload s).out = s.out := rfl
@[simp] theorem openUpload_log : (openUpload s).log = s.log := rfl
@[simp] theorem openUpload_src : (openUpload s).src = s.src := rfl
@[simp] theorem openUpload_srcEpoch : (openUpload s).srcEpoch = s.srcEpoch + 1 := rfl
@[simp] theorem openUpload_rxbCap : (openUpload s).rxbCap = s.rxbCap := rfl
@[simp] theorem openUpload_chan : (openUpload s).chan = s.chan := rfl
@[simp] theorem openUpload_agenda : (openUpload s).agenda = s.agenda := rfl
@[simp] theorem openUpload_standing : (openUpload s).standing = s.standing := rfl
@[simp] theorem openUpload_ret : (openUpload s).ret = s.ret := rfl

/-! ### openDownload -/

@[simp] theorem openDownload_phase (q : Bool) (c : CountSrc) : (openDownload q c s).phase = s.phase := rfl
@[simp] theorem openDownload_mode (q : Bool) (c : CountSrc) : (openDownload q c s).mode = .download := rfl
@[simp] theorem openDownload_reqCrc (q : Bool) (c : CountSrc) : (openDownload q c s).reqCrc = q := rfl
@[simp] theorem openDownload_countSrc (q : Bool) (c : CountSrc) : (openDownload q c s).countSrc = c := rfl
@[simp] theorem openDownload_totalValid (q : Bool) (c : CountSrc) : (openDownload q c s).totalValid = s.totalValid := rfl
@[simp] theorem openDownload_cancelPend (q : Bool) (c : CountSrc) : (openDownload q c s).cancelPend = false := rfl
@[simp] theorem openDownload_cmdErr (q : Bool) (c : CountSrc) : (openDownload q c s).cmdErr = s.cmdErr := rfl
@[simp] theorem openDownload_failReason (q : Bool) (c : CountSrc) : (openDownload q c s).failReason = none := rfl
@[simp] theorem openDownload_seq (q : Bool) (c : CountSrc) : (openDownload q c s).seq = Config.seqFirst := rfl
@[simp] theorem openDownload_total (q : Bool) (c : CountSrc) : (openDownload q c s).total = s.total := rfl
@[simp] theorem openDownload_progress (q : Bool) (c : CountSrc) : (openDownload q c s).progress = 0 := rfl
@[simp] theorem openDownload_lastErr (q : Bool) (c : CountSrc) : (openDownload q c s).lastErr = none := rfl
@[simp] theorem openDownload_trig (q : Bool) (c : CountSrc) : (openDownload q c s).trig = s.trig := rfl
@[simp] theorem openDownload_crcAcc (q : Bool) (c : CountSrc) : (openDownload q c s).crcAcc = s.crcAcc := rfl
@[simp] theorem openDownload_txLen (q : Bool) (c : CountSrc) : (openDownload q c s).txLen = s.txLen := rfl
@[simp] theorem openDownload_txp (q : Bool) (c : CountSrc) : (openDownload q c s).txp = s.txp := rfl
@[simp] theorem openDownload_lineValid (q : Bool) (c : CountSrc) : (openDownload q c s).lineValid = s.lineValid := rfl
@[simp] theorem openDownload_rxb (q : Bool) (c : CountSrc) : (openDownload q c s).rxb = s.rxb := rfl
@[simp] theorem openDownload_out (q : Bool) (c : CountSrc) : (openDownload q c s).out = s.out := rfl
@[simp] theorem openDownload_log (q : Bool) (c : CountSrc) : (openDownload q c s).log = [] := rfl
@[simp] theorem openDownload_src (q : Bool) (c : CountSrc) : (openDownload q c s).src = s.src := rfl
@[simp] theorem openDownload_srcEpoch (q : Bool) (c : CountSrc) : (openDownload q c s).srcEpoch = s.srcEpoch := rfl
@[simp] theorem openDownload_rxbCap (q : Bool) (c : CountSrc) : (openDownload q c s).rxbCap = s.rxbCap := rfl
@[simp] theorem openDownload_chan (q : Bool) (c : CountSrc) : (openDownload q c s).chan = s.chan := rfl
@[simp] theorem openDownload_agenda (q : Bool) (c : CountSrc) : (openDownload q c s).agenda = s.agenda := rfl
@[simp] theorem openDownload_standing (q : Bool) (c : CountSrc) : (openDownload q c s).standing = s.standing := rfl
@[simp] theorem openDownload_ret (q : Bool) (c : CountSrc) : (openDownload q c s).ret = s.ret := rfl

/-! ### clearSession -/

@[simp] theorem clearSession_phase : (clearSession s).phase = .idle := rfl
@[simp] theorem clearSession_mode : (clearSession s).mode = .upload := rfl
@[simp] theorem clearSession_reqCrc : (clearSession s).reqCrc = false := rfl
@[simp] theorem clearSession_countSrc : (clearSession s).countSrc = .field := rfl
@[simp] theorem clearSession_totalValid : (clearSession s).totalValid = false := rfl
@[simp] theorem clearSession_cancelPend : (clearSession s).cancelPend = false := rfl
@[simp] theorem clearSession_cmdErr : (clearSession s).cmdErr = false := rfl
@[simp] theorem clearSession_failReason : (clearSession s).failReason = none := rfl
@[simp] theorem clearSession_seq : (clearSession s).seq = 0 := rfl
@[simp] theorem clearSession_total : (clearSession s).total = 0 := rfl
@[simp] theorem clearSession_progress : (clearSession s).progress = 0 := rfl
@[simp] theorem clearSession_lastErr : (clearSession s).lastErr = none := rfl
@[simp] theorem clearSession_trig : (clearSession s).trig = s.trig := rfl
@[simp] theorem clearSession_crcAcc : (clearSession s).crcAcc = s.crcAcc := rfl
@[simp] theorem clearSession_txLen : (clearSession s).txLen = 0 := rfl
@[simp] theorem clearSession_txp : (clearSession s).txp = s.txp := rfl
@[simp] theorem clearSession_lineValid : (clearSession s).lineValid = false := rfl
@[simp] theorem clearSession_rxb : (clearSession s).rxb = s.rxb := rfl
@[simp] theorem clearSession_out : (clearSession s).out = s.out := rfl
@[simp] theorem clearSession_log : (clearSession s).log = s.log := rfl
@[simp] theorem clearSession_src : (clearSession s).src = s.src := rfl
@[simp] theorem clearSession_srcEpoch : (clearSession s).srcEpoch = s.srcEpoch := rfl
@[simp] theorem clearSession_rxbCap : (clearSession s).rxbCap = s.rxbCap := rfl
@[simp] theorem clearSession_chan : (clearSession s).chan = s.chan := rfl
@[simp] theorem clearSession_agenda : (clearSession s).agenda = s.agenda := rfl
@[simp] theorem clearSession_standing : (clearSession s).standing = s.standing := rfl
@[simp] theorem clearSession_ret : (clearSession s).ret = s.ret := rfl

/-! ### hwReset -/

@[simp] theorem hwReset_phase : (hwReset s).phase = .idle := rfl
@[simp] theorem hwReset_mode : (hwReset s).mode = .upload := rfl
@[simp] theorem hwReset_reqCrc : (hwReset s).reqCrc = false := rfl
@[simp] theorem hwReset_countSrc : (hwReset s).countSrc = .field := rfl
@[simp] theorem hwReset_totalValid : (hwReset s).totalValid = false := rfl
@[simp] theorem hwReset_cancelPend : (hwReset s).cancelPend = false := rfl
@[simp] theorem hwReset_cmdErr : (hwReset s).cmdErr = false := rfl
@[simp] theorem hwReset_failReason : (hwReset s).failReason = none := rfl
@[simp] theorem hwReset_seq : (hwReset s).seq = 0 := rfl
@[simp] theorem hwReset_total : (hwReset s).total = 0 := rfl
@[simp] theorem hwReset_progress : (hwReset s).progress = 0 := rfl
@[simp] theorem hwReset_lastErr : (hwReset s).lastErr = none := rfl
@[simp] theorem hwReset_trig : (hwReset s).trig = 0 := rfl
@[simp] theorem hwReset_crcAcc : (hwReset s).crcAcc = Config.crcSeed := rfl
@[simp] theorem hwReset_txLen : (hwReset s).txLen = 0 := rfl
@[simp] theorem hwReset_txp : (hwReset s).txp = s.txp := rfl
@[simp] theorem hwReset_lineValid : (hwReset s).lineValid = false := rfl
@[simp] theorem hwReset_rxb : (hwReset s).rxb = s.rxb := rfl
@[simp] theorem hwReset_out : (hwReset s).out = [] := rfl
@[simp] theorem hwReset_log : (hwReset s).log = [] := rfl
@[simp] theorem hwReset_src : (hwReset s).src = s.src := rfl
@[simp] theorem hwReset_srcEpoch : (hwReset s).srcEpoch = s.srcEpoch := rfl
@[simp] theorem hwReset_rxbCap : (hwReset s).rxbCap = s.rxbCap := rfl
@[simp] theorem hwReset_chan : (hwReset s).chan = s.chan := rfl
@[simp] theorem hwReset_agenda : (hwReset s).agenda = s.agenda := rfl
@[simp] theorem hwReset_standing : (hwReset s).standing = s.standing := rfl
@[simp] theorem hwReset_ret : (hwReset s).ret = s.ret := rfl

@[simp] theorem chanDrain_fst : (chanDrain s).1 = s.rxb := rfl

end

end Sys2Proof.Machine
end

