-- ==== Sys2Proof/Laws/Ops.lean ====
section
/-! SUPPORT. For each shared operation one lemma that says once everything it can do. -/

namespace Sys2Proof.Machine

/-- A write answered ok goes on with Tx in OUT; one answered err ends in FAILED(IoError) with TxFail. -/
theorem writeOrFail_cases (bs : Bytes) (k : State → State) (s : State) :
    (s.chan = .ok ∧ writeOrFail bs k s = k (emit (.tx bs) s)) ∨
      (∃ n, s.chan = .err n ∧ writeOrFail bs k s = fail .ioError (emit (.txFail (bs.take n)) s)) := by
  cases h : s.chan with
  | ok => exact .inl ⟨rfl, by simp [writeOrFail, chanWrite, h, ChanAnswer.isOk, writeEvent]⟩
  | err n => exact .inr ⟨n, rfl, by simp [writeOrFail, chanWrite, h, ChanAnswer.isOk, writeEvent]⟩

/-- A byte is appended to RXB or lost. -/
theorem rxArrive_cases (b : Byte) (s : State) :
    (rxbHasRoom s = true ∧ rxArrive b s = { s with rxb := s.rxb ++ [b] }) ∨
      (rxbHasRoom s = false ∧ rxArrive b s = s) := by
  unfold rxArrive
  cases rxbHasRoom s <;> simp

/-- Arriving bytes change RXB alone. -/
theorem rxArriveAll_only_rxb (bs : Bytes) (s : State) :
    ∃ r, rxArriveAll bs s = { s with rxb := r } := by
  induction bs generalizing s with
  | nil => exact ⟨s.rxb, rfl⟩
  | cons b rest ih =>
    rcases rxArrive_cases b s with ⟨-, h⟩ | ⟨-, h⟩
    · obtain ⟨r, hr⟩ := ih { s with rxb := s.rxb ++ [b] }
      exact ⟨r, by simp only [rxArriveAll, List.foldl_cons, h] at hr ⊢; exact hr⟩
    · obtain ⟨r, hr⟩ := ih s
      exact ⟨r, by simp only [rxArriveAll, List.foldl_cons, h] at hr ⊢; exact hr⟩

/-- RXB after a byte: appended, or as it was when full. -/
theorem rxArrive_rxb_length_le {b : Byte} {s : State} {c : Nat} (hc : s.rxbCap = some c)
    (h : s.rxb.length ≤ c) : (rxArrive b s).rxb.length ≤ c := by
  unfold rxArrive rxbHasRoom
  simp only [hc]
  split
  · rename_i hlt
    simp at hlt ⊢
    omega
  · exact h

theorem rxArriveAll_rxb_length_le {bs : Bytes} {s : State} {c : Nat} (hc : s.rxbCap = some c)
    (h : s.rxb.length ≤ c) : (rxArriveAll bs s).rxb.length ≤ c := by
  induction bs generalizing s with
  | nil => exact h
  | cons b rest ih =>
    refine ih (s := rxArrive b s) ?_ (rxArrive_rxb_length_le hc h)
    rcases rxArrive_cases b s with ⟨-, e⟩ | ⟨-, e⟩ <;> rw [e] <;> exact hc

/-- A line of the source has at most 255 bytes. -/
theorem srcLine_length_le (k : Word) (s : State) : (srcLine k s).length ≤ 255 := by
  unfold srcLine Config.lenMax
  split <;> simp

/-- A presented line is what SRC gives. -/
theorem srcLine_of_presented {k : Word} {s : State} {l : Bytes} (h1 : 1 ≤ k.toNat)
    (h2 : k.toNat ≤ s.total.toNat) (hl : s.src[k.toNat - 1]? = some l) (h : l.length ≤ 255) :
    srcLine k s = l := by
  unfold srcLine
  rw [if_pos ⟨h1, h2⟩, List.getD_eq_getElem?_getD, hl]
  exact List.take_of_length_le h

/-- The line fetch: nothing when the line is there, else line SEQ into TXP. -/
theorem fetchLine_cases (s : State) :
    (s.lineValid = true ∧ fetchLine s = s) ∨
      (s.lineValid = false ∧
        fetchLine s =
          { s with
            txLen := lenByte (srcLine s.seq s), txp := Memory.writeAll s.txp 0 (srcLine s.seq s)
            lineValid := true }) := by
  unfold fetchLine
  cases h : s.lineValid <;> simp

/-- After the fetch TXP[0 .. TXLEN) is line SEQ. -/
theorem txLine_fetched {s : State} (hw : s.txp.wf = true) (h : s.lineValid = false) :
    txLine (fetchLine s) = srcLine s.seq s := by
  have hl := srcLine_length_le s.seq s
  rcases fetchLine_cases s with ⟨h', -⟩ | ⟨-, e⟩
  · simp [h] at h'
  · simp only [txLine, e]
    rw [lenByte_toNat hl]
    exact Memory.readAll_writeAll hw (by simp [Memory.size]; omega)

/-- The last packet is in when SEQ + 1 exceeds TOTAL. -/
theorem lastPacket_iff (seq total : Word) : lastPacket seq total = true ↔ total.toNat ≤ seq.toNat := by
  have h1 := seq.isLt
  have h2 := total.isLt
  have h3 : (1 : BitVec 17).toNat = 1 := rfl
  simp only [lastPacket, decide_eq_true_eq, BitVec.lt_def, BitVec.toNat_add, BitVec.toNat_setWidth, h3]
  omega

/-- prog is at most 100. -/
theorem progNat_le (seq total : Word) : progNat seq total ≤ 100 := by
  unfold progNat
  split
  · exact le_refl _
  · simp only
    split <;> omega

theorem prog_toNat (seq total : Word) : (prog seq total).toNat = progNat seq total := by
  have := progNat_le seq total
  simp only [prog, BitVec.toNat_ofNat]
  omega

/-- An accepted reply has a payload of 1 to 255 bytes. -/
theorem decReplyAt_payload {f : Bytes} {seq total : Word} {p : Bytes}
    (h : decReplyAt f seq = .ok total p) : 1 ≤ p.length ∧ p.length ≤ 255 := by
  have hb := (byteAt f 6).isLt
  simp only [decReplyAt, Config.replyMin] at h
  by_cases h1 : f.length < 9
  · rw [if_pos h1] at h; cases h
  rw [if_neg h1] at h
  by_cases h2 : f.length < 9 + (byteAt f 6).toNat
  · rw [if_pos h2] at h; cases h
  rw [if_neg h2] at h
  by_cases h3 : crc16 (slice f 0 (7 + (byteAt f 6).toNat)) ≠ wordAt f (7 + (byteAt f 6).toNat)
  · rw [if_pos h3] at h; cases h
  rw [if_neg h3] at h
  by_cases h4 : wordAt f 2 ≠ seq
  · rw [if_pos h4] at h; cases h
  rw [if_neg h4] at h
  by_cases h5 : (byteAt f 6).toNat = 0
  · rw [if_pos h5] at h; cases h
  rw [if_neg h5] at h
  injection h with _ hp
  subst hp
  simp only [slice, List.length_take, List.length_drop]
  omega

theorem decReply_payload {buf : Bytes} {seq total : Word} {p : Bytes}
    (h : decReply buf seq = .ok total p) : 1 ≤ p.length ∧ p.length ≤ 255 := by
  unfold decReply at h
  split at h
  · contradiction
  · exact decReplyAt_payload h

end Sys2Proof.Machine
end

