-- ==== Sys2Proof/Laws/Step.lean ====
section
/-! SUPPORT. Every operation answers a next state, what the next event is, and what a step can be. -/

namespace Sys2Proof.Machine

/-- What an answer is, for a meaning that always goes on. -/
def nextOf (r : Result) (s : State) : State :=
  match r with
  | .next t => t
  | .fault _ => s
  | .refused _ => s

@[simp] theorem nextOf_next (t s : State) : nextOf (.next t) s = t := rfl

/-! ### The next event -/

section
variable {s : State} {e : Event} {rest : List Event}

theorem nextEvent_scheduled (h : s.agenda = e :: rest) :
    nextEvent s = (e, { s with agenda := rest }) := by
  simp [nextEvent, h]

theorem nextEvent_again (h : s.agenda = []) (hw : s.standing = .again (e :: rest)) :
    nextEvent s = (e, { s with agenda := rest }) := by
  simp [nextEvent, h, hw]

theorem nextEvent_free {k : Nat} (h : s.agenda = []) (hw : s.standing = .free k) :
    nextEvent s = (Config.freeEvent k, { s with standing := .free (k + 1) }) := by
  simp [nextEvent, h, hw]

theorem nextEvent_idle (h : s.agenda = []) (hw : s.standing = .idle ∨ s.standing = .again []) :
    nextEvent s = (.turn, s) := by
  rcases hw with hw | hw <;> simp [nextEvent, h, hw]

end

/-- Taking the next event writes `agenda` and `standing` alone. -/
theorem nextEvent_snd (s : State) :
    (nextEvent s).2 =
      { s with agenda := (nextEvent s).2.agenda, standing := (nextEvent s).2.standing } := by
  unfold nextEvent
  split <;> rfl

@[simp] theorem nextEvent_phase (s : State) : (nextEvent s).2.phase = s.phase := by rw [nextEvent_snd]
@[simp] theorem nextEvent_mode (s : State) : (nextEvent s).2.mode = s.mode := by rw [nextEvent_snd]
@[simp] theorem nextEvent_reqCrc (s : State) : (nextEvent s).2.reqCrc = s.reqCrc := by rw [nextEvent_snd]
@[simp] theorem nextEvent_countSrc (s : State) : (nextEvent s).2.countSrc = s.countSrc := by rw [nextEvent_snd]
@[simp] theorem nextEvent_totalValid (s : State) : (nextEvent s).2.totalValid = s.totalValid := by rw [nextEvent_snd]
@[simp] theorem nextEvent_cancelPend (s : State) : (nextEvent s).2.cancelPend = s.cancelPend := by rw [nextEvent_snd]
@[simp] theorem nextEvent_cmdErr (s : State) : (nextEvent s).2.cmdErr = s.cmdErr := by rw [nextEvent_snd]
@[simp] theorem nextEvent_failReason (s : State) : (nextEvent s).2.failReason = s.failReason := by rw [nextEvent_snd]
@[simp] theorem nextEvent_seq (s : State) : (nextEvent s).2.seq = s.seq := by rw [nextEvent_snd]
@[simp] theorem nextEvent_total (s : State) : (nextEvent s).2.total = s.total := by rw [nextEvent_snd]
@[simp] theorem nextEvent_progress (s : State) : (nextEvent s).2.progress = s.progress := by rw [nextEvent_snd]
@[simp] theorem nextEvent_lastErr (s : State) : (nextEvent s).2.lastErr = s.lastErr := by rw [nextEvent_snd]
@[simp] theorem nextEvent_trig (s : State) : (nextEvent s).2.trig = s.trig := by rw [nextEvent_snd]
@[simp] theorem nextEvent_crcAcc (s : State) : (nextEvent s).2.crcAcc = s.crcAcc := by rw [nextEvent_snd]
@[simp] theorem nextEvent_txLen (s : State) : (nextEvent s).2.txLen = s.txLen := by rw [nextEvent_snd]
@[simp] theorem nextEvent_txp (s : State) : (nextEvent s).2.txp = s.txp := by rw [nextEvent_snd]
@[simp] theorem nextEvent_lineValid (s : State) : (nextEvent s).2.lineValid = s.lineValid := by rw [nextEvent_snd]
@[simp] theorem nextEvent_rxb (s : State) : (nextEvent s).2.rxb = s.rxb := by rw [nextEvent_snd]
@[simp] theorem nextEvent_out (s : State) : (nextEvent s).2.out = s.out := by rw [nextEvent_snd]
@[simp] theorem nextEvent_log (s : State) : (nextEvent s).2.log = s.log := by rw [nextEvent_snd]
@[simp] theorem nextEvent_src (s : State) : (nextEvent s).2.src = s.src := by rw [nextEvent_snd]
@[simp] theorem nextEvent_srcEpoch (s : State) : (nextEvent s).2.srcEpoch = s.srcEpoch := by rw [nextEvent_snd]
@[simp] theorem nextEvent_rxbCap (s : State) : (nextEvent s).2.rxbCap = s.rxbCap := by rw [nextEvent_snd]
@[simp] theorem nextEvent_chan (s : State) : (nextEvent s).2.chan = s.chan := by rw [nextEvent_snd]
@[simp] theorem nextEvent_ret (s : State) : (nextEvent s).2.ret = s.ret := by rw [nextEvent_snd]

/-! ### The step -/

/-- What one event makes of the state, as an answer of `step`. -/
def stepOn (e : Event) (s : State) : Result :=
  match selectEvent e s with
  | .run i t => exec i t
  | .settled t => .next t
  | .fault f => .fault f
  | .refused r => .refused r

/-- A step is its event, in the state with the event taken. -/
theorem step_eq {s u : State} {e : Event} (h : nextEvent s = (e, u)) : step s = stepOn e u :=
  calc
    step s = stepOn (nextEvent s).1 (nextEvent s).2 := rfl
    _ = stepOn e u := by rw [h]

/-- The access of an event: an access, or the one STATE and MODE make of a turn. -/
def accessOf (e : Event) (s : State) : Option Access :=
  match e with
  | .turn => some (.dispatch (dispatchBits s))
  | .access a => some a
  | .channel _ => none
  | .present _ => none
  | .hwReset => none

/-- The selection of an event that has an access. -/
theorem selectEvent_access {e : Event} {s : State} {a : Access} (h : accessOf e s = some a) :
    selectEvent e s = selectAccess a s := by
  cases e <;> simp [accessOf] at h <;> subst h <;> rfl

/-- The step at a state whose next event selects a well-formed operation. -/
theorem step_access {s u : State} {e : Event} {a : Access} {i : Instr} (h : nextEvent s = (e, u))
    (ha : accessOf e u = some a) (hd : decode a = .ok i) (hw : i.wellFormed = true) :
    step s = exec i u := by
  simp [step_eq h, stepOn, selectEvent_access ha, selectAccess, hd, hw]

/-- What selects the sequencer's step is MODE and STATE alone. -/
theorem dispatchBits_eq (s : State) :
    dispatchBits s = BitVec.ofBool (modeBit s.mode) ++ phaseCode s.phase := by
  simp only [dispatchBits, statusWord]
  generalize BitVec.ofBool (modeBit s.mode) = m
  generalize phaseCode s.phase = p
  apply BitVec.eq_of_getLsbD_eq
  intro i hi
  simp only [BitVec.getLsbD_extractLsb', BitVec.getLsbD_append]
  interval_cases i <;> simp

/-- A turn runs the operation that MODE and STATE select. -/
theorem stepOn_turn {s : State} {i : Instr}
    (hd : decode (.dispatch (BitVec.ofBool (modeBit s.mode) ++ phaseCode s.phase)) = .ok i)
    (hw : i.wellFormed = true) : stepOn .turn s = exec i s := by
  simp [stepOn, selectEvent, selectTurn, selectAccess, dispatchBits_eq, hd, hw]

/-- The step at a state whose next event is a turn while no step is enabled. -/
theorem step_settled {s u : State} {e : Event} {a : Access} (h : nextEvent s = (e, u))
    (ha : accessOf e u = some a) (hd : decode a = .err .noStepEnabled) : step s = .next u := by
  simp [step_eq h, stepOn, selectEvent_access ha, selectAccess, hd]

/-- What an event that answers a next state is: an operation its access selects, a turn while no step is
enabled, a new channel answer, new lines, or hardware reset. -/
theorem stepOn_cases {e : Event} {u t : State} (h : stepOn e u = .next t) :
    (∃ a i, accessOf e u = some a ∧ decode a = .ok i ∧ i.wellFormed = true ∧ exec i u = .next t) ∨
      (∃ a, accessOf e u = some a ∧ decode a = .err .noStepEnabled ∧ t = u) ∨
      (∃ r, e = .channel r ∧ t = { u with chan := r }) ∨
      (∃ ls, e = .present ls ∧ ls.all fitsLen = true ∧ t = { u with src := ls }) ∨
      (e = .hwReset ∧ t = hwReset u) := by
  have access : ∀ a, accessOf e u = some a →
      (∃ i, decode a = .ok i ∧ i.wellFormed = true ∧ exec i u = .next t) ∨
        (decode a = .err .noStepEnabled ∧ t = u) := by
    intro a ha
    simp only [stepOn, selectEvent_access ha, selectAccess] at h
    cases hd : decode a with
    | ok i =>
      cases hw : i.wellFormed <;> simp [hd, hw] at h
      exact .inl ⟨i, rfl, hw, h⟩
    | err x => cases x <;> simp [hd] at h; exact .inr ⟨rfl, h.symm⟩
  cases e with
  | turn =>
    rcases access _ rfl with ⟨i, hi⟩ | hi
    · exact .inl ⟨_, i, rfl, hi⟩
    · exact .inr (.inl ⟨_, rfl, hi⟩)
  | access a =>
    rcases access _ rfl with ⟨i, hi⟩ | hi
    · exact .inl ⟨_, i, rfl, hi⟩
    · exact .inr (.inl ⟨_, rfl, hi⟩)
  | channel r =>
    simp only [stepOn, selectEvent, Host.Outcome.next.injEq] at h
    exact .inr (.inr (.inl ⟨r, rfl, h.symm⟩))
  | present ls =>
    cases hl : ls.all fitsLen <;> simp [stepOn, selectEvent, presentLines, hl] at h
    exact .inr (.inr (.inr (.inl ⟨ls, rfl, hl, h.symm⟩)))
  | hwReset =>
    simp only [stepOn, selectEvent, Host.Outcome.next.injEq] at h
    exact .inr (.inr (.inr (.inr ⟨rfl, h.symm⟩)))

/-- What a step that answers a next state is: `stepOn_cases` of the next event. -/
theorem step_cases {s t : State} (h : step s = .next t) :
    let e := (nextEvent s).1
    let u := (nextEvent s).2
    (∃ a i, accessOf e u = some a ∧ decode a = .ok i ∧ i.wellFormed = true ∧ exec i u = .next t) ∨
      (∃ a, accessOf e u = some a ∧ decode a = .err .noStepEnabled ∧ t = u) ∨
      (∃ r, e = .channel r ∧ t = { u with chan := r }) ∨
      (∃ ls, e = .present ls ∧ ls.all fitsLen = true ∧ t = { u with src := ls }) ∨
      (e = .hwReset ∧ t = hwReset u) :=
  stepOn_cases ((step_eq rfl).symm.trans h)

end Sys2Proof.Machine
end

