-- ==== Sys2Proof/Laws/Livelock.lean ====
section
/-! SUPPORT. The infinite runs of R339. While the environment repeats, in each round, the same bytes before
and after the poll, and the decode rejects what the poll finds, STATE stays in 1 to 4 for any number of
steps, with SEQ and PROGRESS as they were. No step ends such a run. -/

namespace Sys2Proof.Machine

/-- Bytes arriving one after the other (R67). -/
def arrivals (bs : Bytes) : List Event := bs.map (fun b => .access (.byteArrives b))

/-- One round: a send, the bytes that arrive before the poll, the poll, the bytes that arrive after it. -/
def round (before after : Bytes) : List Event := .turn :: (arrivals before ++ .turn :: arrivals after)

/-- `s` in STATE `p` with these values of RXB, OUT and LASTERR, and these events to come. -/
def roundState (s : State) (p : Phase) (rxb : Bytes) (agenda : List Event) (out : List OutEvent)
    (err : Option FrameError) : State :=
  { s with phase := p, rxb := rxb, agenda := agenda, out := out, lastErr := err }

/-- The states of a repeated round: in `wait`, with the bytes `x` of those before the poll in, and in
`send`, with the bytes `x` of those after it in. -/
inductive InRound (before after : Bytes) (send wait : Phase) (s : State) : State → Prop where
  | polling (x y : Bytes) (out : List OutEvent) (err : Option FrameError) : before = x ++ y →
      InRound before after send wait s
        (roundState s wait (after ++ x) (arrivals y ++ .turn :: arrivals after) out err)
  | sending (x y : Bytes) (out : List OutEvent) (err : Option FrameError) : after = x ++ y →
      InRound before after send wait s (roundState s send x (arrivals y) out err)

section
variable {before after : Bytes} {send wait : Phase} {s t : State}

/-- A byte that arrives at an unbounded RXB. -/
theorem stepOn_arrival (b : Byte) (h : s.rxbCap = none) :
    stepOn (.access (.byteArrives b)) s = .next { s with rxb := s.rxb ++ [b] } := by
  simp [stepOn, selectEvent, selectAccess, decode, Instr.wellFormed, exec, execRxArrive, rxArrive,
    rxbHasRoom, h]

/-- A step inside a repeated round stays inside it. -/
theorem step_inRound (hc : s.rxbCap = none) (hw : s.standing = .again (round before after))
    (hsend : ∀ r a o e, ∃ o',
      stepOn .turn (roundState s send r a o e) = .next (roundState s wait r a o' e))
    (hpoll : ∀ a o e, ∃ e',
      stepOn .turn (roundState s wait (after ++ before) a o e) = .next (roundState s send [] a o e'))
    (h : InRound before after send wait s t) :
    ∃ u, step t = .next u ∧ InRound before after send wait s u := by
  cases h with
  | polling x y o e hxy =>
    cases y with
    | nil =>
      obtain ⟨e', he⟩ := hpoll (arrivals after) o e
      obtain rfl : before = x := by simpa using hxy
      exact ⟨_, (step_eq (nextEvent_scheduled rfl)).trans he, .sending [] after o e' rfl⟩
    | cons b y =>
      refine ⟨_, (step_eq (nextEvent_scheduled rfl)).trans (stepOn_arrival b hc), ?_⟩
      have := InRound.polling (send := send) (wait := wait) (s := s) (after := after) (x ++ [b]) y o e
        (hxy.trans (by simp))
      rw [← List.append_assoc] at this
      exact this
  | sending x y o e hxy =>
    cases y with
    | nil =>
      obtain rfl : after = x := by simpa using hxy
      obtain ⟨o', ho⟩ := hsend after (arrivals before ++ .turn :: arrivals after) o e
      refine ⟨_, (step_eq (nextEvent_again (s := roundState s send after [] o e) rfl hw)).trans ho, ?_⟩
      simpa using InRound.polling (send := send) (wait := wait) (s := s) [] before o' e rfl
    | cons b y =>
      exact ⟨_, (step_eq (nextEvent_scheduled rfl)).trans (stepOn_arrival b hc),
        .sending (x ++ [b]) y o e (hxy.trans (by simp))⟩

/-- A run whose first step answers goes on from the answer. -/
theorem run_next {M : Host.Core} {s t : M.State} (h : M.step s = .next t) (k : Nat) :
    M.run (k + 1) s = M.run k t := by
  simp only [Host.Core.run, h]

/-- What every step keeps, every run keeps. -/
theorem run_keeps {P : State → Prop} (h : ∀ s, P s → ∃ t, step s = .next t ∧ P t) (k : Nat) :
    ∀ s, P s → ∃ t, Sys2Proof.core.run k s = .next t ∧ P t := by
  induction k with
  | zero => exact fun s hs => ⟨s, rfl, hs⟩
  | succ k ih =>
    intro s hs
    obtain ⟨t, ht, hp⟩ := h s hs
    obtain ⟨u, hu, hq⟩ := ih t hp
    exact ⟨u, (run_next (M := Sys2Proof.core) ht k).trans hu, hq⟩

end

/-- The state right before a round. -/
theorem inRound_self {before : Bytes} {send wait : Phase} {s : State} (hp : s.phase = send)
    (ha : s.agenda = []) : InRound before s.rxb send wait s s := by
  have e : s = roundState s send s.rxb (arrivals []) s.out s.lastErr := by
    rw [← hp]
    simp only [roundState, arrivals, List.map_nil, ← ha]
  have h := InRound.sending (before := before) (wait := wait) (s := s) (send := send) s.rxb [] s.out
    s.lastErr (List.append_nil s.rxb).symm
  rwa [← e] at h

/-- A turn in SENDING with the line held writes the data frame. -/
theorem stepOn_send {s : State} (hp : s.phase = .sending) (hcan : s.cancelPend = false)
    (hch : s.chan = .ok) (hl : s.lineValid = true) :
    stepOn .turn s =
      .next { s with out := s.out ++ [.tx (encUdata s.seq (txLine s))], phase := .awaitingAck } := by
  rw [stepOn_turn (i := .ulSend) (by cases h : s.mode <;> rw [hp] <;> decide) rfl]
  rcases writeOrFail_cases (encUdata s.seq (txLine s)) (fun t => { t with phase := .awaitingAck }) s with
    ⟨-, h⟩ | ⟨n, h, -⟩
  · simp [exec, execUlSend, hp, ulSend, hcan, fetchLine, hl, h, emit]
  · simp [hch] at h

/-- A turn in REQUESTING writes the request. -/
theorem stepOn_request {s : State} (hp : s.phase = .requesting) (hcan : s.cancelPend = false)
    (hch : s.chan = .ok) :
    stepOn .turn s =
      .next { s with out := s.out ++ [.tx (encReq s.seq s.reqCrc)], phase := .awaitingReply } := by
  rw [stepOn_turn (i := .dlReq) (by cases h : s.mode <;> rw [hp] <;> decide) rfl]
  rcases writeOrFail_cases (encReq s.seq s.reqCrc) (fun t => { t with phase := .awaitingReply }) s with
    ⟨-, h⟩ | ⟨n, h, -⟩
  · simp [exec, execDlReq, hp, dlReq, hcan, h, emit]
  · simp [hch] at h

/-- A turn in AWAITING_ACK that rejects RXB retries. -/
theorem stepOn_ack_rejected {s : State} {e : FrameError} (hp : s.phase = .awaitingAck)
    (hd : decAck s.rxb s.seq = .err e) :
    stepOn .turn s = .next { s with rxb := [], lastErr := some e, phase := .sending } := by
  rw [stepOn_turn (i := .ulPoll) (by cases h : s.mode <;> rw [hp] <;> decide) rfl]
  simp [exec, execUlPoll, hp, ulPoll, chanDrain, hd, retry]

/-- A turn in AWAITING_REPLY that rejects RXB retries. -/
theorem stepOn_reply_rejected {s : State} {e : FrameError} (hp : s.phase = .awaitingReply)
    (hd : decReply s.rxb s.seq = .err e) :
    stepOn .turn s = .next { s with rxb := [], lastErr := some e, phase := .requesting } := by
  rw [stepOn_turn (i := .dlPoll) (by cases h : s.mode <;> rw [hp] <;> decide) rfl]
  simp [exec, execDlPoll, hp, dlPoll, chanDrain, hd, retry]

/-- An upload whose environment repeats a round that the decode rejects never ends (R206, R339). -/
theorem upload_repeats {s : State} {before : Bytes} {err : FrameError}
    (hp : s.phase = .sending) (hcan : s.cancelPend = false) (hch : s.chan = .ok)
    (hl : s.lineValid = true) (hc : s.rxbCap = none) (ha : s.agenda = [])
    (hw : s.standing = .again (round before s.rxb)) (hd : decAck (s.rxb ++ before) s.seq = .err err)
    (k : Nat) :
    ∃ t, Sys2Proof.core.run k s = .next t ∧ (t.phase = .sending ∨ t.phase = .awaitingAck) ∧
      t.seq = s.seq ∧ t.progress = s.progress := by
  obtain ⟨t, ht, hin⟩ := run_keeps
    (fun t => step_inRound hc hw (fun _ _ _ _ => ⟨_, stepOn_send rfl hcan hch hl⟩)
      (fun _ _ _ => ⟨_, stepOn_ack_rejected rfl hd⟩)) k s (inRound_self hp ha)
  refine ⟨t, ht, ?_⟩
  cases hin
  · exact ⟨.inr rfl, rfl, rfl⟩
  · exact ⟨.inl rfl, rfl, rfl⟩

/-- A download whose environment repeats a round that the decode rejects never ends (R238, R339). -/
theorem download_repeats {s : State} {before : Bytes} {err : FrameError}
    (hp : s.phase = .requesting) (hcan : s.cancelPend = false) (hch : s.chan = .ok)
    (hc : s.rxbCap = none) (ha : s.agenda = []) (hw : s.standing = .again (round before s.rxb))
    (hd : decReply (s.rxb ++ before) s.seq = .err err) (k : Nat) :
    ∃ t, Sys2Proof.core.run k s = .next t ∧ (t.phase = .requesting ∨ t.phase = .awaitingReply) ∧
      t.seq = s.seq ∧ t.progress = s.progress ∧ t.log = s.log := by
  obtain ⟨t, ht, hin⟩ := run_keeps
    (fun t => step_inRound hc hw (fun _ _ _ _ => ⟨_, stepOn_request rfl hcan hch⟩)
      (fun _ _ _ => ⟨_, stepOn_reply_rejected rfl hd⟩)) k s (inRound_self hp ha)
  refine ⟨t, ht, ?_⟩
  cases hin
  · exact ⟨.inr rfl, rfl, rfl, rfl⟩
  · exact ⟨.inl rfl, rfl, rfl, rfl⟩

/-! ### The situations of R339 -/

/-- A download of packet 1 whose environment repeats these rounds, with `after` already in RXB. -/
def stuckDownload (before after : Bytes) : State :=
  { State.reset with
    phase := .requesting, mode := .download, seq := 1, rxb := after
    standing := .again (round before after) }

/-- An upload of line 1 of 1 whose environment repeats these rounds. -/
def stuckUpload (before after : Bytes) : State :=
  { State.reset with
    phase := .sending, seq := 1, total := 1, totalValid := true, lineValid := true, rxb := after
    standing := .again (round before after) }

/-- STATE stays in 1 to 4 for any number of steps (R339, R342). -/
def NeverEnds (s : State) : Prop :=
  ∀ k, ∃ t, Sys2Proof.core.run k s = .next t ∧
    (t.phase = .sending ∨ t.phase = .awaitingAck ∨ t.phase = .requesting ∨ t.phase = .awaitingReply)

theorem stuckDownload_neverEnds {before after : Bytes} {err : FrameError}
    (h : decReply (after ++ before) 1 = .err err) : NeverEnds (stuckDownload before after) := by
  intro k
  obtain ⟨t, ht, hp, -⟩ := download_repeats (s := stuckDownload before after) rfl rfl rfl rfl rfl rfl h k
  exact ⟨t, ht, .inr (.inr hp)⟩

theorem stuckUpload_neverEnds {before after : Bytes} {err : FrameError}
    (h : decAck (after ++ before) 1 = .err err) : NeverEnds (stuckUpload before after) := by
  intro k
  obtain ⟨t, ht, hp, -⟩ := upload_repeats (s := stuckUpload before after) rfl rfl rfl rfl rfl rfl rfl h k
  exact ⟨t, ht, hp.elim .inl (fun h => .inr (.inl h))⟩

/-- A device that never answers; one that ignores the other request variant is such a device. -/
theorem livelock_silent_device : NeverEnds (stuckDownload [] []) ∧ NeverEnds (stuckUpload [] []) :=
  ⟨stuckDownload_neverEnds (err := .syncNotFound) rfl, stuckUpload_neverEnds (err := .syncNotFound) rfl⟩

/-- A device whose answers (V123, V41) always arrive after the poll and always behind a false pair. -/
theorem livelock_late_behind_false_pair :
    NeverEnds (stuckDownload []
        [0x75, 0x65, 0x75, 0x65, 0x00, 0x01, 0x00, 0x05, 0x02, 0x4C, 0x31, 0x4C, 0xC9]) ∧
      NeverEnds (stuckUpload [] [0x75, 0x65, 0x75, 0x65, 0x00, 0x01, 0xD3, 0xCB]) :=
  ⟨stuckDownload_neverEnds (err := .checksumMismatch) (by decide),
    stuckUpload_neverEnds (err := .checksumMismatch) (by decide)⟩

/-- A device that reports LEN = 0 for the requested packet (V126). -/
theorem livelock_empty_payload :
    NeverEnds (stuckDownload [0x75, 0x65, 0x00, 0x01, 0x00, 0x05, 0x00, 0x9E, 0x2F] []) :=
  stuckDownload_neverEnds (err := .emptyPayload) (by decide)

/-- An acknowledgement that always carries another sequence number, 2 for line 1. -/
theorem livelock_wrong_sequence :
    NeverEnds (stuckUpload [0x75, 0x65, 0x00, 0x02, 0xD2, 0x8B] []) :=
  stuckUpload_neverEnds (err := .sequenceMismatch) (by decide)

end Sys2Proof.Machine
end

