-- ==== Sys2Proof/Laws/PerInstr.lean ====
section
/-! SUPPORT. The family RoundTrip: for each constructor, decoding what the encoder wrote gives the
operation back. -/

namespace Sys2Proof.Laws

open Sys2Proof.Machine

/-- Decoding the encoding of a well-formed operation gives the operation. -/
def RoundTrip.Statement (i : Instr) : Prop :=
  i.wellFormed = true → ∀ a, encode i = some a → decode a = .ok i

/-! ### Frames -/

theorem trailerRight_encTail (h : Bytes) : trailerRight (encTail h) = true := by
  simp [trailerRight]

theorem opensWithSync_encTail (seq : Word) (t : Bytes) :
    opensWithSync (encTail (frameHead seq ++ t)) = true := by
  simp [opensWithSync, encTail, frameHead]

theorem checkedFrame_encTail (seq : Word) (t : Bytes) (i : Instr) {n : Nat} (hn : n = t.length + 6) :
    checkedFrame (encTail (frameHead seq ++ t)) n i = .ok i := by
  subst hn
  rw [checkedFrame, opensWithSync_encTail, trailerRight_encTail]
  simp
  omega

theorem checkedFrame_encTail_head (seq : Word) (i : Instr) :
    checkedFrame (encTail (frameHead seq)) 6 i = .ok i := by
  simpa using checkedFrame_encTail seq [] i rfl

theorem wordAt_seq (seq : Word) (t : Bytes) : wordAt (encTail (frameHead seq ++ t)) 2 = seq := by
  simp [wordAt, byteAt, encTail, frameHead]

theorem wordAt_seq_head (seq : Word) : wordAt (encTail (frameHead seq)) 2 = seq := by
  simp [wordAt, byteAt, encTail, frameHead]

/-! ### Accesses -/

theorem ofNat_toNat_lt {w n : Nat} (b : BitVec w) (h : 2 ^ w = n) : ¬ n ≤ b.toNat := by
  have := b.isLt
  omega

theorem decode_command {c : Command} (h : commandOf (commandWord c) = c) :
    decode (.hostWrite 0 (commandWord c).toNat) = .ok (instrOfCommand c) := by
  have := (commandWord c).isLt
  simp only [decode, decodeWrite, isPlainWrite]
  rw [if_neg (by simp; omega)]
  simp [h]

namespace RoundTrip

theorem fReq4 (seq : Word) : Statement (.fReq4 seq) := by
  rintro - a ⟨⟩
  simp [decode, decodeHostSend, frameHead, encTerm, decodeRequest, opensWithSync,
    Config.termByte, Config.sync1, List.replicate, wordAt, byteAt]

theorem fReq6 (seq : Word) : Statement (.fReq6 seq) := by
  rintro - a ⟨⟩
  have h : decodeRequest (encTail (frameHead seq)) = .ok (.fReq6 seq) := by
    rw [decodeRequest, checkedFrame_encTail_head, wordAt_seq_head]
    simp
  simpa [decode, decodeHostSend, encTail, frameHead, encTerm, Config.termLen] using h

theorem fAck (seq : Word) : Statement (.fAck seq) := by
  rintro - a ⟨⟩
  rw [decode, decodeDeviceSend, checkedFrame_encTail_head, wordAt_seq_head]

theorem fReply (seq total : Word) (payload : Bytes) : Statement (.fReply seq total payload) := by
  rintro h a ⟨⟩
  have hp : payload.length ≤ Config.lenMax := by simpa [Instr.wellFormed, fitsLen] using h
  have hn : (byteAt (encTail (frameHead seq ++ [hiByte total, loByte total, lenByte payload] ++ payload))
      6).toNat = payload.length := by
    rw [← lenByte_toNat hp]
    simp [byteAt, encTail, frameHead]
  have ht : wordAt (encTail (frameHead seq ++ [hiByte total, loByte total, lenByte payload] ++ payload))
      4 = total := by
    simp [wordAt, byteAt, encTail, frameHead]
  have hd : slice (encTail (frameHead seq ++ [hiByte total, loByte total, lenByte payload] ++ payload))
      7 payload.length = payload := by
    simp [slice, encTail, frameHead]
  rw [decode, decodeDeviceSend, decodeReplyFrame]
  simp only [hn, ht, hd]
  rw [List.append_assoc, wordAt_seq, checkedFrame_encTail _ _ _ (by simp; omega)]

theorem fUdata (seq : Word) (payload : Bytes) : Statement (.fUdata seq payload) := by
  rintro h a ⟨⟩
  have hp : payload.length ≤ Config.lenMax := by simpa [Instr.wellFormed, fitsLen] using h
  have hn : (byteAt (encTail (frameHead seq ++ [lenByte payload] ++ payload)) 4).toNat
      = payload.length := by
    rw [← lenByte_toNat hp]
    simp [byteAt, encTail, frameHead]
  have hd : slice (encTail (frameHead seq ++ [lenByte payload] ++ payload)) 5 payload.length
      = payload := by
    simp [slice, encTail, frameHead]
  have hu : decodeUdata (encTail (frameHead seq ++ [lenByte payload] ++ payload))
      = .ok (.fUdata seq payload) := by
    rw [decodeUdata]
    simp only [hn, hd]
    rw [List.append_assoc, wordAt_seq, checkedFrame_encTail _ _ _ (by simp; omega)]
  simpa [decode, decodeHostSend, encTail, frameHead, encTerm, Config.termLen, Config.termByte,
    Config.sync1, List.replicate] using hu

theorem fTerm : Statement .fTerm := by
  rintro - a ⟨⟩
  rfl

theorem fTrigUl (a : Byte) : Statement (.fTrigUl a) := by
  rintro - _ ⟨⟩
  rfl

theorem fTrigDl (a : Byte) (b : Option Byte) : Statement (.fTrigDl a b) := by
  cases b <;> rintro - _ ⟨⟩ <;> rfl

theorem nop : Statement .nop := by
  rintro - _ ⟨⟩
  exact decode_command rfl

theorem startUl : Statement .startUl := by
  rintro - _ ⟨⟩
  exact decode_command rfl

theorem startDl (reqCrc : Bool) (countSrc : CountSrc) : Statement (.startDl reqCrc countSrc) := by
  rintro - _ ⟨⟩
  exact decode_command (by cases reqCrc <;> cases countSrc <;> rfl)

theorem cancel : Statement .cancel := by
  rintro - _ ⟨⟩
  exact decode_command rfl

theorem abortProto : Statement .abortProto := by
  rintro - _ ⟨⟩
  exact decode_command rfl

theorem clear : Statement .clear := by
  rintro - _ ⟨⟩
  exact decode_command rfl

theorem crcClr : Statement .crcClr := by
  rintro - _ ⟨⟩
  exact decode_command rfl

/-- The words R271 names are the words `commandOf` reads as reserved. -/
theorem commandOf_reserved {w : Word} (h : isReservedWord w = true) : commandOf w = .reserved w := by
  simp only [isReservedWord] at h
  unfold commandOf
  generalize w.extractLsb' 6 10 = r at *
  generalize w.extractLsb' 0 4 = op at *
  generalize (w.getLsbD 4 || w.getLsbD 5) = b at *
  by_cases hr : r = 0
  · rw [if_neg (not_not.mpr hr)]
    by_cases h2 : op = 2
    · subst h2 hr
      simp at h
    · have h2' : op.toNat ≠ 2 := fun e => h2 (BitVec.eq_of_toNat_eq e)
      rw [if_neg h2]
      cases b
      · have h7 : 7 ≤ op.toNat := by simpa [hr] using h
        rw [if_neg Bool.false_ne_true]
        split <;> first | omega | rfl
      · exact if_pos rfl
  · exact if_pos hr

theorem cmdReserved (w : Word) : Statement (.cmdReserved w) := by
  rintro h _ ⟨⟩
  exact decode_command (c := .reserved w) (commandOf_reserved h)

theorem rdreg (n : Nat) : Statement (.rdreg n) := by
  rintro h _ ⟨⟩
  have : n ≠ 1 := by simpa [Instr.wellFormed] using h
  simp [decode, decodeRead, this]

theorem wrreg (n v : Nat) : Statement (.wrreg n v) := by
  rintro h _ ⟨⟩
  have hw : isPlainWrite n v = true := h
  simp [decode, decodeWrite, hw]

theorem wrregTotal (v : Word) : Statement (.wrregTotal v) := by
  rintro - _ ⟨⟩
  have := v.isLt
  simp only [decode, decodeWrite, isPlainWrite]
  rw [if_neg (by simp; omega)]
  simp

theorem wrregTrig (v : TrigWord) : Statement (.wrregTrig v) := by
  rintro - _ ⟨⟩
  have := v.isLt
  simp only [decode, decodeWrite, isPlainWrite]
  rw [if_neg (by simp; omega)]
  simp

theorem crcPush (b : Byte) : Statement (.crcPush b) := by
  rintro - _ ⟨⟩
  have := b.isLt
  simp only [decode, decodeWrite, isPlainWrite]
  rw [if_neg (by simp; omega)]
  simp

theorem statusLayout : Statement .statusLayout := by rintro - _ ⟨⟩; rfl
theorem ulSend : Statement .ulSend := by rintro - _ ⟨⟩; rfl
theorem ulPoll : Statement .ulPoll := by rintro - _ ⟨⟩; rfl
theorem dlReq : Statement .dlReq := by rintro - _ ⟨⟩; rfl
theorem dlPoll : Statement .dlPoll := by rintro - _ ⟨⟩; rfl
theorem ulDone : Statement .ulDone := by rintro - _ ⟨⟩; rfl
theorem dlDone : Statement .dlDone := by rintro - _ ⟨⟩; rfl
theorem ulStart : Statement .ulStart := by rintro - _ ⟨⟩
theorem dlStart (reqCrc : Bool) (countSrc : CountSrc) : Statement (.dlStart reqCrc countSrc) := by
  rintro - _ ⟨⟩
theorem crcUpd (crc : Word) (b : Byte) : Statement (.crcUpd crc b) := by rintro - _ ⟨⟩; rfl
theorem crc16 (bs : Bytes) : Statement (.crc16 bs) := by rintro - _ ⟨⟩; rfl
theorem crcHi (bs : Bytes) : Statement (.crcHi bs) := by rintro - _ ⟨⟩; rfl
theorem crcLo (bs : Bytes) : Statement (.crcLo bs) := by rintro - _ ⟨⟩; rfl
theorem encTail (h : Bytes) : Statement (.encTail h) := by rintro - _ ⟨⟩; rfl
theorem encReq (seq : Word) (v : Bool) : Statement (.encReq seq v) := by rintro - _ ⟨⟩; rfl
theorem encUdata (seq : Word) (p : Bytes) : Statement (.encUdata seq p) := by rintro - _ ⟨⟩; rfl
theorem encTerm : Statement .encTerm := by rintro - _ ⟨⟩; rfl
theorem encTrigUl : Statement .encTrigUl := by rintro - _ ⟨⟩; rfl
theorem encTrigDl : Statement .encTrigDl := by rintro - _ ⟨⟩; rfl
theorem encAck (seq : Word) : Statement (.encAck seq) := by rintro - _ ⟨⟩; rfl
theorem encReply (seq total : Word) (p : Bytes) : Statement (.encReply seq total p) := by
  rintro - _ ⟨⟩; rfl
theorem findSync (buf : Bytes) : Statement (.findSync buf) := by rintro - _ ⟨⟩; rfl
theorem decAck (buf : Bytes) (seq : Word) : Statement (.decAck buf seq) := by rintro - _ ⟨⟩; rfl
theorem decReply (buf : Bytes) (seq : Word) : Statement (.decReply buf seq) := by rintro - _ ⟨⟩; rfl
theorem prog (seq total : Word) : Statement (.prog seq total) := by rintro - _ ⟨⟩; rfl
theorem rxArrive (b : Byte) : Statement (.rxArrive b) := by rintro - _ ⟨⟩; rfl
theorem chanWrite (bs : Bytes) : Statement (.chanWrite bs) := by rintro - _ ⟨⟩; rfl
theorem chanDrain : Statement .chanDrain := by rintro - _ ⟨⟩; rfl
theorem srcLine (k : Word) : Statement (.srcLine k) := by rintro - _ ⟨⟩; rfl
theorem logAppend (p : Bytes) : Statement (.logAppend p) := by rintro - _ ⟨⟩
theorem closeReq : Statement .closeReq := by rintro - _ ⟨⟩
theorem fail (reason : FatalReason) : Statement (.fail reason) := by rintro - _ ⟨⟩

end RoundTrip

end Sys2Proof.Laws
end

