-- ==== Sys2Proof/Tests/Slice0.lean ====
section
/-! SUPPORT. Our own tests. Expected values are those of 95_test_vectors.md (V and P numbers) or written out
by hand from the encodings of 30_encoding.md. The last part holds, for each statement with hypotheses,
states and operands that meet them. -/

namespace Sys2Proof.Tests

open Sys2Proof Sys2Proof.Machine Sys2Proof.Claims

/-! ### Helpers -/

/-- The state an operation leaves. -/
def after (i : Instr) (s : State) : State := nextOf (exec i s) s

/-- The value an operation returns. -/
def value (i : Instr) (s : State) : Ret := (after i s).ret

/-- The state a step leaves, with one event scheduled. -/
def stepped (e : Event) (s : State) : State := nextOf (step { s with agenda := [e] }) s

/-- An upload in state `p`. -/
def up (p : Phase) (seq total : Word) : State :=
  { State.reset with phase := p, seq := seq, total := total, totalValid := true }

/-- A download in state `p` with the count of the replies. -/
def down (p : Phase) (seq total : Word) : State :=
  { State.reset with phase := p, mode := .download, seq := seq, total := total, totalValid := true }

/-- A payload of 256 bytes, one more than LEN can count. -/
def tooLong : Bytes := List.replicate 256 0x41

/-- A payload of 255 bytes. -/
def longest : Bytes := List.replicate 255 0x41

/-! ### WellFormed: an ill-formed term for each check -/

set_option maxRecDepth 8000 in
theorem test_wf_refuses_long_payloads :
    (Instr.fReply 1 1 tooLong).wellFormed = false ∧ (Instr.fUdata 1 tooLong).wellFormed = false ∧
      (Instr.encUdata 1 tooLong).wellFormed = false ∧ (Instr.encReply 1 1 tooLong).wellFormed = false ∧
      (Instr.logAppend tooLong).wellFormed = false ∧ (Instr.fUdata 1 longest).wellFormed = true := by
  decide

theorem test_wf_refuses_sequence_number_0 :
    (Instr.encReq 0 true).wellFormed = false ∧ (Instr.encUdata 0 []).wellFormed = false ∧
      (Instr.srcLine 0).wellFormed = false := by
  decide

theorem test_wf_refuses_empty_sequences :
    (Instr.chanWrite []).wellFormed = false ∧ (Instr.logAppend []).wellFormed = false := by
  decide

theorem test_wf_refuses_a_command_as_reserved :
    (Instr.cmdReserved 0x0000).wellFormed = false ∧ (Instr.cmdReserved 0x0032).wellFormed = false ∧
      (Instr.cmdReserved 0x0042).wellFormed = true := by
  decide

theorem test_wf_refuses_the_specific_rows_as_register_rows :
    (Instr.rdreg 1).wellFormed = false ∧ (Instr.wrreg 0 0xFFFF).wellFormed = false ∧
      (Instr.wrreg 3 0xFFFF).wellFormed = false ∧ (Instr.wrreg 6 0x1FFFF).wellFormed = false ∧
      (Instr.wrreg 8 0xFF).wellFormed = false ∧ (Instr.wrreg 8 0x100).wellFormed = true := by
  decide

/-! ### Decode: words written out from 30_encoding.md -/

/-- R96: `75 65 SH SL`, sequence number 258. -/
theorem test_decode_fReq4 : decode (.hostSend .download [0x75, 0x65, 0x01, 0x02]) = .ok (.fReq4 258) := by
  decide

/-- R97, V28. -/
theorem test_decode_fReq6 :
    decode (.hostSend .download [0x75, 0x65, 0x01, 0x02, 0x42, 0x8A]) = .ok (.fReq6 258) := by
  decide

/-- R98, V42. -/
theorem test_decode_fAck :
    decode (.deviceSend .upload [0x75, 0x65, 0x00, 0x03, 0x12, 0x4A]) = .ok (.fAck 3) := by
  decide

set_option maxRecDepth 8000 in
/-- R99, V49: total 300, payload `hello`. -/
theorem test_decode_fReply :
    decode (.deviceSend .download
        [0x75, 0x65, 0x00, 0x07, 0x01, 0x2C, 0x05, 0x68, 0x65, 0x6C, 0x6C, 0x6F, 0xE1, 0x7A]) =
      .ok (.fReply 7 300 [0x68, 0x65, 0x6C, 0x6C, 0x6F]) := by
  decide

/-- R100, V31 and V34 (an empty line). -/
theorem test_decode_fUdata :
    decode (.hostSend .upload [0x75, 0x65, 0x00, 0x01, 0x02, 0x61, 0x0A, 0x99, 0x24]) =
        .ok (.fUdata 1 [0x61, 0x0A]) ∧
      decode (.hostSend .upload [0x75, 0x65, 0x00, 0x01, 0x00, 0x97, 0x92]) = .ok (.fUdata 1 []) := by
  decide

/-- R101, R102. -/
theorem test_decode_raw_formats :
    decode (.hostSend .upload [0x10, 0x10, 0x10, 0x10]) = .ok .fTerm ∧
      decode (.hostSend .download [0x10, 0x10, 0x10, 0x10]) = .ok .fTerm ∧
      decode (.hostSend .upload [0x52]) = .ok (.fTrigUl 0x52) ∧
      decode (.hostSend .download [0x4C]) = .ok (.fTrigDl 0x4C none) ∧
      decode (.hostSend .download [0x4C, 0x53]) = .ok (.fTrigDl 0x4C (some 0x53)) := by
  decide

/-- R107. -/
theorem test_decode_commands :
    decode (.hostWrite 0 0x0000) = .ok .nop ∧ decode (.hostWrite 0 0x0001) = .ok .startUl ∧
      decode (.hostWrite 0 0x0003) = .ok .cancel ∧ decode (.hostWrite 0 0x0004) = .ok .abortProto ∧
      decode (.hostWrite 0 0x0005) = .ok .clear ∧ decode (.hostWrite 0 0x0006) = .ok .crcClr := by
  decide

/-- R265: bit 4 is A_REQ_CRC, bit 5 A_COUNT_SRC. -/
theorem test_decode_startDl :
    decode (.hostWrite 0 0x0002) = .ok (.startDl false .field) ∧
      decode (.hostWrite 0 0x0012) = .ok (.startDl true .field) ∧
      decode (.hostWrite 0 0x0022) = .ok (.startDl false .text) ∧
      decode (.hostWrite 0 0x0032) = .ok (.startDl true .text) := by
  decide

/-- R271 and V151. -/
theorem test_decode_cmdReserved :
    decode (.hostWrite 0 0x0007) = .ok (.cmdReserved 0x0007) ∧
      decode (.hostWrite 0 0x0041) = .ok (.cmdReserved 0x0041) ∧
      decode (.hostWrite 0 0x0011) = .ok (.cmdReserved 0x0011) ∧
      decode (.hostWrite 0 0x8001) = .ok (.cmdReserved 0x8001) := by
  decide

/-- R109, R110. -/
theorem test_decode_register_accesses :
    decode (.hostRead 1) = .ok .statusLayout ∧ decode (.hostRead 2) = .ok (.rdreg 2) ∧
      decode (.hostRead 9) = .ok (.rdreg 9) ∧ decode (.hostWrite 3 3) = .ok (.wrregTotal 3) ∧
      decode (.hostWrite 6 0x1534C) = .ok (.wrregTrig 0x1534C) ∧
      decode (.hostWrite 8 0x31) = .ok (.crcPush 0x31) ∧ decode (.hostWrite 4 7) = .ok (.wrreg 4 7) ∧
      decode (.hostWrite 3 0x10000) = .ok (.wrreg 3 0x10000) ∧
      decode (.hostWrite 6 0x20000) = .ok (.wrreg 6 0x20000) ∧
      decode (.hostWrite 8 0x100) = .ok (.wrreg 8 0x100) := by
  decide

/-- STATUS bits 3:0 of the STATE_DISPATCH rows; mask 0x7 leaves MODE open for the first four. -/
theorem test_decode_dispatch :
    decode (.dispatch 0b0001) = .ok .ulSend ∧ decode (.dispatch 0b1001) = .ok .ulSend ∧
      decode (.dispatch 0b0010) = .ok .ulPoll ∧ decode (.dispatch 0b1011) = .ok .dlReq ∧
      decode (.dispatch 0b1100) = .ok .dlPoll ∧ decode (.dispatch 0b0101) = .ok .ulDone ∧
      decode (.dispatch 0b1101) = .ok .dlDone ∧ decode (.dispatch 0b0000) = .err .noStepEnabled ∧
      decode (.dispatch 0b1110) = .err .noStepEnabled ∧
      decode (.dispatch 0b0111) = .err .noStepEnabled := by
  decide

/-- Frames that are none: a wrong trailer (V61), a missing byte (V62), no sync pair. -/
theorem test_decode_rejects_broken_frames :
    decode (.deviceSend .upload [0x75, 0x65, 0x00, 0x01, 0xD3, 0xCA]) = .err .badChecksum ∧
      decode (.deviceSend .upload [0x75, 0x65, 0x00, 0x01, 0xD3]) = .err .badLength ∧
      decode (.hostSend .download [0x65, 0x75, 0x00, 0x01]) = .err .notAFrame ∧
      decode (.hostSend .upload []) = .err .notAFrame := by
  decide

/-- The channel's and the link's accesses. -/
theorem test_decode_channel_accesses :
    decode (.byteArrives 0xAA) = .ok (.rxArrive 0xAA) ∧ decode (.hostRaw [0x01]) = .ok (.chanWrite [0x01]) ∧
      decode .hostDrain = .ok .chanDrain := by
  decide

/-- The function rows are evaluated; the five rows of log 14 have no access. -/
theorem test_decode_internal_rows :
    decode (.evaluate (.crcUpd 0 0x31)) = .ok (.crcUpd 0 0x31) ∧
      decode (.evaluate (.crc16 [])) = .ok (.crc16 []) ∧ decode (.evaluate (.crcHi [])) = .ok (.crcHi []) ∧
      decode (.evaluate (.crcLo [])) = .ok (.crcLo []) ∧ decode (.evaluate (.encTail [])) = .ok (.encTail []) ∧
      decode (.evaluate (.encReq 1 true)) = .ok (.encReq 1 true) ∧
      decode (.evaluate (.encUdata 1 [])) = .ok (.encUdata 1 []) ∧
      decode (.evaluate .encTerm) = .ok .encTerm ∧ decode (.evaluate .encTrigUl) = .ok .encTrigUl ∧
      decode (.evaluate .encTrigDl) = .ok .encTrigDl ∧ decode (.evaluate (.encAck 1)) = .ok (.encAck 1) ∧
      decode (.evaluate (.encReply 1 1 [])) = .ok (.encReply 1 1 []) ∧
      decode (.evaluate (.findSync [])) = .ok (.findSync []) ∧
      decode (.evaluate (.decAck [] 1)) = .ok (.decAck [] 1) ∧
      decode (.evaluate (.decReply [] 1)) = .ok (.decReply [] 1) ∧
      decode (.evaluate (.prog 1 3)) = .ok (.prog 1 3) ∧
      decode (.evaluate (.srcLine 1)) = .ok (.srcLine 1) ∧
      decode (.evaluate .ulStart) = .err .notSelectable ∧
      decode (.evaluate (.dlStart true .field)) = .err .notSelectable ∧
      decode (.evaluate (.logAppend [1])) = .err .notSelectable ∧
      decode (.evaluate .closeReq) = .err .notSelectable ∧
      decode (.evaluate (.fail .ioError)) = .err .notSelectable := by
  decide

/-- Words of the opcode table (log 2): 24 bits are a value of TRIG, 8 bits no dispatch row has a trigger. -/
theorem test_table_words :
    decodeTableWord 24 0x01534C = some (.wrregTrig 0x1534C) ∧
      decodeTableWord 8 0x56 = some (.fTrigUl 0x56) := by
  decide

/-! ### One step of each operation -/

set_option maxRecDepth 8000 in
/-- V17 and V21. -/
theorem test_crcUpd :
    value (.crcUpd 0x0000 0x31) .reset = .word 0xD4C1 ∧ value (.crcUpd 0x1234 0x56) .reset = .word 0xE993 := by
  decide

set_option maxRecDepth 8000 in
/-- V14 and V1. -/
theorem test_crc16 :
    value (.crc16 [0x31, 0x32, 0x33, 0x34, 0x35, 0x36, 0x37, 0x38, 0x39]) .reset = .word 0xBB3D ∧
      value (.crc16 []) .reset = .word 0x0000 := by
  decide

/-- V15 and V16. -/
theorem test_crc_bytes :
    value (.crcHi [0x75, 0x65, 0x00, 0x01]) .reset = .byte 0xD3 ∧
      value (.crcLo [0x75, 0x65, 0x00, 0x01]) .reset = .byte 0xCB := by
  decide

/-- R150's example. -/
theorem test_encTail :
    value (.encTail [0x75, 0x65, 0x00, 0x01]) .reset = .bytes [0x75, 0x65, 0x00, 0x01, 0xD3, 0xCB] := by
  decide

/-- V30 and V29. -/
theorem test_encReq :
    value (.encReq 65535 false) .reset = .bytes [0x75, 0x65, 0xFF, 0xFF] ∧
      value (.encReq 65535 true) .reset = .bytes [0x75, 0x65, 0xFF, 0xFF, 0xA3, 0x0B] := by
  decide

set_option maxRecDepth 8000 in
/-- V35 and V34. -/
theorem test_encUdata :
    value (.encUdata 1 [0x48, 0x45, 0x4C, 0x4C, 0x4F]) .reset =
        .bytes [0x75, 0x65, 0x00, 0x01, 0x05, 0x48, 0x45, 0x4C, 0x4C, 0x4F, 0x1D, 0xD4] ∧
      value (.encUdata 1 []) .reset = .bytes [0x75, 0x65, 0x00, 0x01, 0x00, 0x97, 0x92] := by
  decide

/-- V36. -/
theorem test_encTerm : value .encTerm .reset = .bytes [0x10, 0x10, 0x10, 0x10] := by decide

/-- V37. -/
theorem test_encTrigUl : value .encTrigUl { State.reset with trig := 0x00052 } = .bytes [0x52] := by decide

/-- V39 and V40. -/
theorem test_encTrigDl :
    value .encTrigDl { State.reset with trig := 0x1534C } = .bytes [0x4C, 0x53] ∧
      value .encTrigDl { State.reset with trig := 0x0534C } = .bytes [0x4C] := by
  decide

set_option maxRecDepth 8000 in
/-- V42. -/
theorem test_encAck : value (.encAck 3) .reset = .bytes [0x75, 0x65, 0x00, 0x03, 0x12, 0x4A] := by decide

set_option maxRecDepth 8000 in
/-- V50. -/
theorem test_encReply :
    value (.encReply 2 3 [0x75, 0x65, 0x00]) .reset =
      .bytes [0x75, 0x65, 0x00, 0x02, 0x00, 0x03, 0x03, 0x75, 0x65, 0x00, 0x67, 0xD8] := by
  decide

/-- V55 and V56. -/
theorem test_findSync :
    value (.findSync [0x75, 0x75, 0x65]) .reset = .index (some 1) ∧
      value (.findSync [0x00, 0x75, 0x00, 0x65]) .reset = .index none := by
  decide

/-- V66 and V71. -/
theorem test_decAck :
    value (.decAck [0x00, 0xFF, 0x10, 0x75, 0x65, 0x00, 0x01, 0xD3, 0xCB, 0x99] 1) .reset = .ack .ok ∧
      value (.decAck [0x75, 0x65, 0x75, 0x65, 0x00, 0x01, 0xD3, 0xCB] 1) .reset =
        .ack (.err .checksumMismatch) := by
  decide

set_option maxRecDepth 8000 in
/-- V85 and V90. -/
theorem test_decReply :
    value (.decReply
        [0x75, 0x65, 0x00, 0x07, 0x01, 0x2C, 0x05, 0x68, 0x65, 0x6C, 0x6C, 0x6F, 0xE1, 0x7A] 7) .reset =
        .reply (.ok 300 [0x68, 0x65, 0x6C, 0x6C, 0x6F]) ∧
      value (.decReply [0x75, 0x65, 0x00, 0x01, 0x00, 0x05, 0x02, 0x4C, 0x31] 1) .reset =
        .reply (.err .frameTooShort) := by
  decide

/-- V104 and V106. -/
theorem test_prog :
    value (.prog 656 65535) .reset = .percent 1 ∧ value (.prog 7 3) .reset = .percent 100 := by
  decide

/-- R96, R97: the request frames on the channel. -/
theorem test_request_frames :
    (after (.fReq4 3) .reset).out = [.tx [0x75, 0x65, 0x00, 0x03]] ∧
      (after (.fReq6 3) .reset).out = [.tx [0x75, 0x65, 0x00, 0x03, 0x12, 0x4A]] := by
  decide

/-- V45: a reply arrives whole, and as far as RXB has room. -/
theorem test_fReply :
    (after (.fReply 1 1 [0x41]) .reset).rxb =
        [0x75, 0x65, 0x00, 0x01, 0x00, 0x01, 0x01, 0x41, 0xBD, 0x5F] ∧
      (after (.fReply 1 1 [0x41]) { State.reset with rxb := [0xAA], rxbCap := some 3 }).rxb =
        [0xAA, 0x75, 0x65] := by
  decide

/-- V41. -/
theorem test_fAck : (after (.fAck 1) .reset).rxb = [0x75, 0x65, 0x00, 0x01, 0xD3, 0xCB] := by decide

/-- V33. -/
theorem test_fUdata :
    (after (.fUdata 3 [0x64, 0x0A]) .reset).out =
      [.tx [0x75, 0x65, 0x00, 0x03, 0x02, 0x64, 0x0A, 0x71, 0x26]] := by
  decide

/-- R101, R102, with a channel that takes two bytes and fails. -/
theorem test_raw_formats :
    (after .fTerm { State.reset with chan := .err 2 }).out = [.txFail [0x10, 0x10]] ∧
      (after (.fTrigUl 0x52) .reset).out = [.tx [0x52]] ∧
      (after (.fTrigDl 0x4C (some 0x53)) .reset).out = [.tx [0x4C, 0x53]] := by
  decide

/-- V150. -/
theorem test_nop : after .nop (down .awaitingReply 3 5) = down .awaitingReply 3 5 := by decide

/-- V138: STATUS 0x0041 and the trigger; V137: no line to send. -/
theorem test_startUl :
    let t := after .startUl { State.reset with total := 3, trig := 0x00052 }
    (statusWord t = 0x0041 ∧ t.seq = 1 ∧ t.out = [.tx [0x52]]) ∧
      (after .startUl .reset).cmdErr = true ∧ (after .startUl .reset).phase = .idle := by
  decide

/-- V139 and V140. -/
theorem test_startDl :
    let t := after (.startDl true .field) { State.reset with trig := 0x1534C, total := 9 }
    let u := after (.startDl false .text) { State.reset with total := 2 }
    (statusWord t = 0x001B ∧ t.total = 0 ∧ t.out = [.tx [0x4C, 0x53]]) ∧
      statusWord u = 0x006B ∧ u.total = 2 ∧ u.out = [] := by
  decide

/-- V144 and V145. -/
theorem test_cancel :
    statusWord (after .cancel { down .awaitingReply 3 5 with reqCrc := true }) = 0x00DC ∧
      after .cancel .reset = .reset := by
  decide

/-- V146 and V147. -/
theorem test_abortProto :
    statusWord (after .abortProto .reset) = 0x0407 ∧
      after .abortProto (down .requesting 1 0) = { down .requesting 1 0 with cmdErr := true } := by
  decide

/-- V148 and V149. -/
theorem test_clear :
    let s := { down .failed 3 5 with
      failReason := some .cancelled, cancelPend := true, progress := 40, lastErr := some .syncNotFound
      log := [[0x4C]], trig := 0x4C, crcAcc := 0xBB3D }
    statusWord s = 0x06CF ∧
      after .clear s = { State.reset with log := [[0x4C]], trig := 0x4C, crcAcc := 0xBB3D } ∧
      after .clear (up .sending 1 1) = { up .sending 1 1 with cmdErr := true } := by
  decide

/-- V152 and V155. -/
theorem test_crcClr :
    (after .crcClr { State.reset with crcAcc := 0xBB3D }).crcAcc = 0 ∧
      after .crcClr { up .awaitingAck 1 1 with crcAcc := 5 } =
        { up .awaitingAck 1 1 with crcAcc := 5, cmdErr := true } := by
  decide

/-- V151. -/
theorem test_cmdReserved :
    after (.cmdReserved 0x000F) (up .sending 1 1) = { up .sending 1 1 with cmdErr := true } := by
  decide

/-- R261's example (STATUS 0x005C) and V157. -/
theorem test_reads :
    value (.rdreg 1) { down .awaitingReply 1 5 with reqCrc := true } = .reg 0x005C ∧
      value (.rdreg 6) { State.reset with trig := 0x1534C } = .reg 0x1534C ∧
      value (.rdreg 200) (up .sending 1 1) = .reg 0 := by
  decide

/-- V131 and R261's example. -/
theorem test_statusLayout :
    value .statusLayout .reset = .reg 0 ∧
      value .statusLayout { down .awaitingReply 1 5 with reqCrc := true } = .reg 0x005C := by
  decide

/-- V156 and R262: a write to CMD runs the command. -/
theorem test_wrreg :
    after (.wrreg 9 1) .reset = { State.reset with cmdErr := true } ∧
      (after (.wrreg 0 4) .reset).failReason = some .protocolError := by
  decide

/-- V133 and V134. -/
theorem test_wrregTotal :
    after (.wrregTotal 3) .reset = { State.reset with total := 3 } ∧
      after (.wrreg 3 0x10000) .reset = { State.reset with cmdErr := true } := by
  decide

/-- V135 and V136. -/
theorem test_wrregTrig :
    after (.wrregTrig 0x1534C) .reset = { State.reset with trig := 0x1534C } ∧
      after (.wrreg 6 0x20000) .reset = { State.reset with cmdErr := true } := by
  decide

/-- V153 and V154. -/
theorem test_crcPush :
    (after (.crcPush 0x31) .reset).crcAcc = 0xD4C1 ∧
      after (.wrreg 8 0x100) .reset = { State.reset with cmdErr := true } := by
  decide

/-- V109 and V111. -/
theorem test_ulSend :
    let t := after .ulSend { up .sending 2 3 with src := [[], [0x62, 0x63, 0x0A]] }
    (t.phase = .awaitingAck ∧ t.lineValid = true ∧ t.txLen = 3 ∧
      t.out = [.tx [0x75, 0x65, 0x00, 0x02, 0x03, 0x62, 0x63, 0x0A, 0xB0, 0x82]]) ∧
      after .ulSend { up .sending 2 3 with cancelPend := true } =
        { up .failed 2 3 with cancelPend := true, failReason := some .cancelled, out := [.close] } := by
  decide

/-- V110: the retry writes what TXP holds, whatever became of SRC. -/
theorem test_ulSend_retry :
    (after .ulSend { up .sending 2 3 with
      lineValid := true, txLen := 3, txp := [(0, 0x62), (1, 0x63), (2, 0x0A)], src := [[], [0xFF]] }).out =
      [.tx [0x75, 0x65, 0x00, 0x02, 0x03, 0x62, 0x63, 0x0A, 0xB0, 0x82]] := by
  decide

/-- V113 and V117. -/
theorem test_ulPoll :
    after .ulPoll { up .awaitingAck 2 3 with
        lineValid := true, progress := 33, rxb := [0x75, 0x65, 0x00, 0x02, 0xD2, 0x8B] } =
        { up .sending 3 3 with progress := 66 } ∧
      after .ulPoll { up .awaitingAck 65535 65535 with rxb := [0x75, 0x65, 0xFF, 0xFF, 0xA3, 0x0B] } =
        { up .done 65535 65535 with progress := 100 } := by
  decide

/-- V118 and V119. -/
theorem test_ulDone :
    after .ulDone { up .done 3 3 with rxb := [0xAA, 0xBB] } =
        { up .terminated 3 3 with out := [.tx [0x10, 0x10, 0x10, 0x10]] } ∧
      after .ulDone { up .done 3 3 with chan := .err 1 } =
        { up .failed 3 3 with chan := .err 1, failReason := some .ioError, out := [.txFail [0x10]] } := by
  decide

/-- V120 and V122. -/
theorem test_dlReq :
    (after .dlReq { down .requesting 3 5 with reqCrc := true }).out =
        [.tx [0x75, 0x65, 0x00, 0x03, 0x12, 0x4A]] ∧
      after .dlReq { down .requesting 3 5 with cancelPend := true } =
        { down .failed 3 5 with cancelPend := true, failReason := some .cancelled, out := [.close] } := by
  decide

/-- V124 and V129. -/
theorem test_dlPoll :
    after .dlPoll { down .awaitingReply 1 2 with
        countSrc := .text
        rxb := [0x75, 0x65, 0x00, 0x01, 0x00, 0x05, 0x02, 0x4C, 0x31, 0x4C, 0xC9] } =
        { down .requesting 2 2 with countSrc := .text, progress := 50, log := [[0x4C, 0x31]] } ∧
      after .dlPoll { down .awaitingReply 3 5 with
        rxb := [0x75, 0x65, 0x00, 0x03, 0x00, 0x02, 0x02, 0x4C, 0x33, 0x1B, 0x48] } =
        { down .done 3 2 with progress := 100, log := [[0x4C, 0x33]] } := by
  decide

/-- V126: an empty payload. -/
theorem test_dlPoll_empty_payload :
    after .dlPoll { down .awaitingReply 1 0 with
        totalValid := false, rxb := [0x75, 0x65, 0x00, 0x01, 0x00, 0x05, 0x00, 0x9E, 0x2F] } =
      { down .requesting 1 0 with totalValid := false, lastErr := some .emptyPayload } := by
  decide

/-- V130: RXB is not drained. -/
theorem test_dlDone :
    after .dlDone { down .done 5 5 with rxb := [0xAA] } =
      { down .terminated 5 5 with rxb := [0xAA], out := [.tx [0x10, 0x10, 0x10, 0x10], .close] } := by
  decide

/-- R201's example. -/
theorem test_ulStart :
    (after .ulStart { State.reset with total := 3, trig := 0x00052 }).out = [.tx [0x52]] := by
  decide

/-- R231: an error on the trigger. -/
theorem test_dlStart :
    let t := after (.dlStart true .field) { State.reset with trig := 0x1534C, chan := .err 1 }
    t.phase = .failed ∧ t.failReason = some .ioError ∧ t.out = [.txFail [0x4C]] ∧ t.reqCrc = true := by
  decide

/-- R67: a full buffer loses the byte. -/
theorem test_rxArrive :
    (after (.rxArrive 0xAA) { State.reset with rxb := [0x01], rxbCap := some 2 }).rxb = [0x01, 0xAA] ∧
      (after (.rxArrive 0xAA) { State.reset with rxb := [0x01], rxbCap := some 1 }).rxb = [0x01] := by
  decide

/-- R65. -/
theorem test_chanWrite :
    after (.chanWrite [0x01, 0x02]) .reset =
        { State.reset with out := [.tx [0x01, 0x02]], ret := .written true } ∧
      (after (.chanWrite [0x01, 0x02]) { State.reset with chan := .err 0 }).out = [.txFail []] := by
  decide

/-- R66. -/
theorem test_chanDrain :
    after .chanDrain { State.reset with rxb := [0x01, 0x02] } =
      { State.reset with ret := .bytes [0x01, 0x02] } := by
  decide

/-- R69, line 2 of 2. -/
theorem test_srcLine :
    value (.srcLine 2) { State.reset with total := 2, src := [[0x61], [0x62, 0x0A]] } =
      .bytes [0x62, 0x0A] := by
  decide

/-- R70, R81. -/
theorem test_logAppend_closeReq :
    (after (.logAppend [0x4C]) { State.reset with log := [[0x41]] }).log = [[0x41], [0x4C]] ∧
      (after .closeReq .reset).out = [.close] := by
  decide

/-- R305: everything else is left. -/
theorem test_fail :
    after (.fail .ioError) (up .sending 2 3) = { up .failed 2 3 with failReason := some .ioError } := by
  decide

/-! ### One step of the machine -/

/-- The sequencer's turn, with nothing scheduled (V121). -/
theorem test_step_turn :
    (nextOf (step (down .requesting 3 5)) .reset).out = [.tx [0x75, 0x65, 0x00, 0x03]] := by
  decide

/-- R330: hardware reset leaves RXB and SRC. -/
theorem test_step_reset :
    stepped .hwReset { down .awaitingReply 3 5 with
        trig := 5, crcAcc := 7, rxb := [0xAA], src := [[0x61]], out := [.close], log := [[0x41]] } =
      { State.reset with rxb := [0xAA], src := [[0x61]] } := by
  decide

set_option maxRecDepth 8000 in
/-- The events of the channel and of the source. -/
theorem test_step_environment :
    (stepped (.channel (.err 3)) .reset).chan = .err 3 ∧
      (stepped (.present [[0x61], longest]) .reset).src = [[0x61], longest] := by
  decide

/-- What the environment repeats is scheduled again when nothing is, and a free event counts on (log 1). -/
theorem test_step_standing :
    (let t := nextOf (step { State.reset with standing := .again [.channel (.err 1), .hwReset] }) .reset;
      t.chan = .err 1 ∧ t.agenda = [.hwReset] ∧ t.standing = .again [.channel (.err 1), .hwReset]) ∧
      (nextEvent { State.reset with standing := .free 4 }).2.standing = .free 5 := by
  decide

/-- Words of the opcode table run as the first operation after reset: V133, V146, and UL_DONE. -/
theorem test_withFetchWord :
    (nextOf (step (State.reset.withFetchWord 16 0x0004)) .reset).phase = .failed ∧
      (nextOf (step (State.reset.withFetchWord 24 0x01534C)) .reset).trig = 0x1534C ∧
      (nextOf (step (State.reset.withFetchWord 8 0x05)) .reset).phase = .terminated := by
  decide

/-! ### States and operands that meet the hypotheses of the statements

Each theorem is named after the statement of Obligations.lean it belongs to. -/

/-- The states 1 and 5 at the ends of the active range, the three others, and the least value too wide. -/
theorem test_witness_CrcPortFollowsItsRules :
    (active (up .sending 1 1) ∧ active (up .done 1 1)) ∧
      (¬ active .reset ∧ ¬ active (up .terminated 1 1) ∧ ¬ active (up .failed 1 1)) ∧ 0xFF < 0x100 := by
  simp [active, up, State.reset]

set_option maxRecDepth 8000 in
theorem test_witness_SerializerBuildsDataFramesAndReplies : longest.length ≤ 255 ∧ ([] : Bytes).length ≤ 255 := by
  decide

/-- V63 and V64: no pair in an empty sequence, nor in half a pair. -/
theorem test_witness_noPair : noPair [] ∧ noPair [0x75] ∧ noPair [0x00, 0x75] := by
  refine ⟨fun i => ?_, fun i => ?_, fun i => ?_⟩ <;> rcases i with _ | _ | _ | i <;> simp [pairAt]

/-- V71 and V55: the first of two pairs, and a pair behind half a pair. -/
theorem test_witness_firstPair :
    firstPair [0x75, 0x65, 0x75, 0x65] 0 ∧ firstPair [0x75, 0x75, 0x65] 1 := by
  constructor
  · simp [firstPair, pairAt]
  · refine ⟨by simp [pairAt], fun j hj => ?_⟩
    obtain rfl : j = 0 := by omega
    simp [pairAt]

/-- V62 (five bytes), V61, V60, V59 (six bytes). -/
theorem test_witness_DecAckClassifiesByTheFirstPair :
    (firstPair [0x75, 0x65, 0x00, 0x01, 0xD3] 0 ∧ [0x75, 0x65, 0x00, 0x01, 0xD3].length - 0 < 6) ∧
      (let b : Bytes := [0x75, 0x65, 0x00, 0x01, 0xD3, 0xCA];
        firstPair b 0 ∧ 6 ≤ b.length - 0 ∧ (crc16 ((b.drop 0).take 4)).toNat ≠ field b 4) ∧
      (let b : Bytes := [0x75, 0x65, 0x00, 0x01, 0xD3, 0xCB];
        firstPair b 0 ∧ 6 ≤ b.length - 0 ∧ (crc16 ((b.drop 0).take 4)).toNat = field b 4 ∧
          field b 2 ≠ (2 : Word).toNat ∧ field b 2 = (1 : Word).toNat) := by
  simp only [firstPair, pairAt, Nat.not_lt_zero, false_imp_iff, implies_true, and_true]
  decide

/-- V73 (8 bytes), V90 (9 bytes, LEN 2), V79, V76, V77, V72. -/
theorem test_witness_DecReplyClassifiesByTheFirstPair :
    (let b : Bytes := [0x75, 0x65, 0x00, 0x01, 0x00, 0x05, 0x02, 0x4C];
      firstPair b 0 ∧ b.length - 0 < 9) ∧
      (let b : Bytes := [0x75, 0x65, 0x00, 0x01, 0x00, 0x05, 0x02, 0x4C, 0x31];
        firstPair b 0 ∧ ¬ b.length - 0 < 9 ∧ b.length - 0 < 9 + (b.getD 6 0).toNat) ∧
      (let b : Bytes := [0x75, 0x65, 0x00, 0x01, 0x00, 0x05, 0x02, 0x4C, 0x30, 0x4C, 0xC9];
        firstPair b 0 ∧ 9 + (b.getD 6 0).toNat ≤ b.length - 0 ∧
          (crc16 ((b.drop 0).take 9)).toNat ≠ field b 9) ∧
      (let b : Bytes := [0x75, 0x65, 0x00, 0x01, 0x00, 0x05, 0x00, 0x9E, 0x2F];
        firstPair b 0 ∧ 9 + (b.getD 6 0).toNat ≤ b.length - 0 ∧
          (crc16 ((b.drop 0).take 7)).toNat = field b 7 ∧ field b 2 = (1 : Word).toNat ∧
          (b.getD 6 0).toNat = 0) ∧
      (let b : Bytes := [0x75, 0x65, 0x00, 0x01, 0x00, 0x05, 0x02, 0x4C, 0x31, 0x4C, 0xC9];
        firstPair b 0 ∧ 9 + (b.getD 6 0).toNat ≤ b.length - 0 ∧
          (crc16 ((b.drop 0).take 9)).toNat = field b 9 ∧ field b 2 ≠ (2 : Word).toNat ∧
          field b 2 = (1 : Word).toNat ∧ (b.getD 6 0).toNat ≠ 0) := by
  simp only [firstPair, pairAt, Nat.not_lt_zero, false_imp_iff, implies_true, and_true]
  decide

set_option maxRecDepth 8000 in
/-- The two round trips: half a pair in front, the empty and the longest payload. -/
theorem test_witness_RoundTrips : noPair [0x75] ∧ longest.length ≤ 255 ∧ ([] : Bytes).length ≤ 255 :=
  ⟨test_witness_noPair.2.1, by decide, by decide⟩

set_option maxRecDepth 8000 in
theorem test_witness_StaleFrameHidesTheRest : (1 : Word) ≠ 2 ∧ longest.length ≤ 255 := by decide

/-- No capacity; one byte of room; no room. -/
theorem test_witness_ByteArrivalAppendsOrIsLost :
    State.reset.rxbCap = none ∧
      (let s := { State.reset with rxbCap := some 2, rxb := [0x01] };
        s.rxbCap = some 2 ∧ s.rxb.length < 2) ∧
      (let s := { State.reset with rxbCap := some 1, rxb := [0x01] };
        s.rxbCap = some 1 ∧ 1 ≤ s.rxb.length) := by
  decide

/-- The channel takes all, fails with nothing sent, and fails with everything sent; also for the wire
formats and the sequencer's writes. -/
theorem test_witness_ChannelWriteRecordsWhatLeft :
    ([0x01, 0x02] : Bytes) ≠ [] ∧ State.reset.chan = .ok ∧
      ({ State.reset with chan := .err 0 } : State).chan = .err 0 ∧ 0 ≤ ([0x01, 0x02] : Bytes).length ∧
      ({ State.reset with chan := .err 2 } : State).chan = .err 2 ∧ 2 ≤ ([0x01, 0x02] : Bytes).length := by
  decide

set_option maxRecDepth 8000 in
/-- Lines 1 and 65535 of a source, the first of 255 bytes. -/
theorem test_witness_SourceLineReturnsThePresentedLine :
    (let s := { State.reset with total := 1, src := [longest] };
      1 ≤ (1 : Word).toNat ∧ (1 : Word).toNat ≤ s.total.toNat ∧
        s.src[(1 : Word).toNat - 1]? = some longest ∧ longest.length ≤ 255) ∧
      (let s := { State.reset with total := 65535, src := List.replicate 65535 [] };
        (65535 : Word).toNat ≤ s.total.toNat ∧ s.src[(65535 : Word).toNat - 1]? = some []) := by
  refine ⟨by decide, by decide, ?_⟩
  exact List.getElem?_replicate_of_lt (by decide)

set_option maxRecDepth 8000 in
theorem test_witness_HostToDeviceFormatsAreWritten :
    (Instr.fReq4 1 = .fReq4 1 ∧ head 1 = head 1) ∧ (Instr.fReq6 1 = .fReq6 1) ∧
      (Instr.fUdata 1 longest = .fUdata 1 longest ∧ longest.length ≤ 255) ∧ Instr.fTerm = .fTerm ∧
      Instr.fTrigUl 0 = .fTrigUl 0 ∧ Instr.fTrigDl 0 none = .fTrigDl 0 none ∧
      Instr.fTrigDl 0 (some 0) = .fTrigDl 0 (some 0) ∧ State.reset.chan = .ok ∧
      ({ State.reset with chan := .err 9 } : State).chan = .err 9 := by
  decide

set_option maxRecDepth 8000 in
/-- RXB at its capacity, and empty. -/
theorem test_witness_DeviceToHostFormatsArrive :
    Instr.fAck 1 = .fAck 1 ∧ (Instr.fReply 1 1 longest = .fReply 1 1 longest ∧ longest.length ≤ 255) ∧
      State.reset.rxbCap = none ∧
      (let s := { State.reset with rxbCap := some 1, rxb := [0x01] };
        s.rxbCap = some 1 ∧ s.rxb.length ≤ 1) := by
  decide

/-- Every number of R40, and the first two above CRC_VAL. -/
theorem test_witness_RegisterReadsReturnTheirRegister :
    (∀ n < 8, n = 0 ∨ n = 1 ∨ n = 2 ∨ n = 3 ∨ n = 4 ∨ n = 5 ∨ n = 6 ∨ n = 7) ∧ 8 ≤ 8 ∧ 8 ≤ 9 := by
  decide

theorem test_witness_RegisterWritesFollowTheirRegister :
    decode (.hostWrite 0 (0xFFFF : Word).toNat) = .ok (.cmdReserved 0xFFFF) ∧
      decode (.hostWrite 0 (0x0001 : Word).toNat) = .ok .startUl ∧ State.reset.phase = .idle ∧ 9 ≤ 9 ∧
      reservedWord 0x0007 ∧ reservedWord 0xFFFF := by
  refine ⟨rfl, rfl, rfl, by decide, ?_, ?_⟩ <;> simp [reservedWord]

/-- Reserved words at the ends of the three kinds of R271. -/
theorem test_witness_EveryCommandWordHasOneMeaning :
    reservedWord 0x0007 ∧ reservedWord 0x0010 ∧ reservedWord 0x0033 ∧ reservedWord 0x0040 ∧
      reservedWord 0xFFFF := by
  simp [reservedWord]

theorem test_witness_ReservedNumbersAndWideValues :
    9 ≤ 9 ∧ 2 ^ 16 ≤ 0x10000 ∧ 2 ^ 17 ≤ 0x20000 ∧ 2 ^ 8 ≤ 0x100 := by
  decide

/-- IDLE and its neighbours for the two register writes, and the least values too wide. -/
theorem test_witness_TotalAndTrigAreWrittenOnlyInIdle :
    State.reset.phase = .idle ∧ (up .sending 1 1).phase ≠ .idle ∧ (up .failed 1 1).phase ≠ .idle ∧
      0xFFFF < 0x10000 ∧ 0x1FFFF < 0x20000 := by
  decide

/-- One word for each ground of R271, at the ends of the ranges. -/
theorem test_witness_NopDoesNothingAndReservedWordsAreRefused :
    reservedWord 0x0007 ∧ reservedWord 0x000F ∧ reservedWord 0x0040 ∧ reservedWord 0xFFFF ∧
      reservedWord 0x0010 ∧ reservedWord 0x0033 ∧ ¬ reservedWord 0x0032 ∧ ¬ reservedWord 0x0006 := by
  simp [reservedWord]

/-- Refused outside IDLE and with TOTAL 0; accepted with TOTAL 1, the channel ok or not. -/
theorem test_witness_StartUploadOpensTheSession :
    (up .terminated 1 1).phase ≠ .idle ∧ State.reset.total = 0 ∧
      (let s := { State.reset with total := 1 };
        s.phase = .idle ∧ s.total ≠ 0 ∧ s.chan = .ok) ∧
      (let s := { State.reset with total := 65535, chan := .err 1 };
        s.phase = .idle ∧ s.total ≠ 0 ∧ s.chan = .err 1) := by
  decide

/-- Refused outside IDLE, and TEXT with TOTAL 0; accepted with FIELD and TOTAL 0, and TEXT with TOTAL 1. -/
theorem test_witness_StartDownloadOpensTheSession :
    (down .done 1 1).phase ≠ .idle ∧ (CountSrc.text = .text ∧ State.reset.total = 0) ∧
      (State.reset.phase = .idle ∧ (CountSrc.field = .text → State.reset.total ≠ 0) ∧
        State.reset.chan = .ok) ∧
      (let s := { State.reset with total := 1, chan := .err 0 };
        s.phase = .idle ∧ (CountSrc.text = .text → s.total ≠ 0) ∧ s.chan = .err 0) := by
  decide

/-- The ends of the active range and the three states outside it. -/
theorem test_witness_CommandsInAndOutsideASession :
    active (up .sending 1 1) ∧ active (down .done 1 1) ∧ ¬ active .reset ∧ ¬ active (up .terminated 1 1) ∧
      ¬ active (up .failed 1 1) ∧ State.reset.phase = .idle ∧ (up .terminated 1 1).phase ≠ .idle := by
  simp [active, up, down, State.reset]

/-- Cancelled; the line held; the line to fetch, with the channel ok or failing. -/
theorem test_witness_UploadSendFollowsItsRule :
    (let s := { up .sending 1 1 with cancelPend := true };
      s.phase = .sending ∧ s.txp.wf = true ∧ s.cancelPend = true) ∧
      (let s := { up .sending 1 1 with lineValid := true, txLen := 1, txp := [(0, 0x41), (254, 0x42)] };
        s.phase = .sending ∧ s.txp.wf = true ∧ s.cancelPend = false ∧ s.lineValid = true ∧ s.chan = .ok) ∧
      (let s := { up .sending 65535 65535 with chan := .err 262 };
        s.phase = .sending ∧ s.txp.wf = true ∧ s.cancelPend = false ∧ s.lineValid = false ∧
          s.chan = .err 262) := by
  decide

/-- V116 and V117 (last packet), V113 (SEQ + 1 = TOTAL), V115. -/
theorem test_witness_UploadPollFollowsItsRule :
    (let s := { up .awaitingAck 65535 65535 with rxb := [0x75, 0x65, 0xFF, 0xFF, 0xA3, 0x0B] };
      s.phase = .awaitingAck ∧ decAck s.rxb s.seq = .ok ∧ s.seq.toNat + 1 > s.total.toNat) ∧
      (let s := { up .awaitingAck 2 3 with rxb := [0x75, 0x65, 0x00, 0x02, 0xD2, 0x8B] };
        decAck s.rxb s.seq = .ok ∧ s.seq.toNat + 1 ≤ s.total.toNat) ∧
      (let s := up .awaitingAck 2 3;
        decAck s.rxb s.seq = .err .syncNotFound) := by
  decide

/-- DONE of an upload and of a download, the channel ok or failing. -/
theorem test_witness_DoneStepsFollowTheirRules :
    ((up .done 3 3).phase = .done ∧ (up .done 3 3).mode = .upload ∧ (up .done 3 3).chan = .ok) ∧
      ((down .done 3 3).phase = .done ∧ (down .done 3 3).mode = .download) ∧
      ({ down .done 3 3 with chan := .err 4 } : State).chan = .err 4 := by
  decide

theorem test_witness_DownloadRequestFollowsItsRule :
    (let s := { down .requesting 3 5 with cancelPend := true };
      s.phase = .requesting ∧ s.cancelPend = true) ∧
      (let s := down .requesting 3 5;
        s.phase = .requesting ∧ s.cancelPend = false ∧ s.chan = .ok) ∧
      (let s := { down .requesting 65535 0 with chan := .err 4 };
        s.phase = .requesting ∧ s.cancelPend = false ∧ s.chan = .err 4) := by
  decide

/-- V123 (learned total, SEQ + 1 within it), V125 (total 0), V124 (TEXT), and an empty poll. -/
theorem test_witness_DownloadPollFollowsItsRule :
    (let s := { down .awaitingReply 1 0 with
        rxb := [0x75, 0x65, 0x00, 0x01, 0x00, 0x05, 0x02, 0x4C, 0x31, 0x4C, 0xC9] };
      s.phase = .awaitingReply ∧ decReply s.rxb s.seq = .ok 5 [0x4C, 0x31] ∧ s.countSrc = .field ∧
        s.seq.toNat + 1 ≤ (5 : Word).toNat) ∧
      (let s := { down .awaitingReply 1 0 with
          rxb := [0x75, 0x65, 0x00, 0x01, 0x00, 0x00, 0x01, 0x41, 0x7D, 0x0E] };
        decReply s.rxb s.seq = .ok 0 [0x41] ∧ s.seq.toNat + 1 > (0 : Word).toNat) ∧
      (let s := { down .awaitingReply 1 2 with
          countSrc := .text
          rxb := [0x75, 0x65, 0x00, 0x01, 0x00, 0x05, 0x02, 0x4C, 0x31, 0x4C, 0xC9] };
        decReply s.rxb s.seq = .ok 5 [0x4C, 0x31] ∧ s.countSrc = .text ∧
          s.seq.toNat + 1 ≤ s.total.toNat) ∧
      decReply (down .awaitingReply 1 2).rxb (down .awaitingReply 1 2).seq = .err .syncNotFound := by
  decide

/-- A write that is scheduled, a read that the environment repeats, and a free event. -/
theorem test_witness_StepRunsTheDecodedOperation :
    (∃ u, upcoming { State.reset with agenda := [.access (.hostWrite 0 0x0001), .turn] }
        (.access (.hostWrite 0 0x0001)) u ∧ u.agenda = [.turn]) ∧
      (decode (.hostWrite 0 0x0001) = .ok .startUl ∧ Instr.startUl.wellFormed = true) ∧
      (∃ u, upcoming { State.reset with standing := .again [.access (.hostRead 1), .turn] }
        (.access (.hostRead 1)) u ∧ u.agenda = [.turn]) ∧
      ∃ u, upcoming { State.reset with standing := .free 7 } (Config.freeEvent 7) u ∧
        u.standing = .free 8 :=
  ⟨⟨_, .inl ⟨_, .inl rfl, rfl⟩, rfl⟩, ⟨rfl, rfl⟩, ⟨_, .inl ⟨_, .inr ⟨rfl, rfl⟩, rfl⟩, rfl⟩,
    ⟨_, .inr (.inl ⟨rfl, 7, rfl, rfl, rfl⟩), rfl⟩⟩

/-- A scheduled turn, a repeated one, and nothing to come in its two forms; each of the states. -/
theorem test_witness_TurnTakesTheEnabledStep :
    ((∃ u, upcoming { up .sending 1 1 with agenda := [.turn] } .turn u) ∧
      (∃ u, upcoming { up .sending 1 1 with standing := .again [.turn] } .turn u) ∧
      upcoming .reset .turn .reset ∧ ∃ s : State, s.standing = .again [] ∧ upcoming s .turn s) ∧
      (up .sending 1 1).phase = .sending ∧ (up .awaitingAck 1 1).phase = .awaitingAck ∧
      (down .requesting 1 1).phase = .requesting ∧ (down .awaitingReply 1 1).phase = .awaitingReply ∧
      ((up .done 1 1).phase = .done ∧ (up .done 1 1).mode = .upload) ∧
      ((down .done 1 1).phase = .done ∧ (down .done 1 1).mode = .download) ∧
      State.reset.phase = .idle ∧ (up .terminated 1 1).phase = .terminated ∧
      (up .failed 1 1).phase = .failed := by
  refine ⟨⟨⟨_, .inl ⟨_, .inl rfl, rfl⟩⟩, ⟨_, .inl ⟨_, .inr ⟨rfl, rfl⟩, rfl⟩⟩,
    .inr (.inr ⟨rfl, .inl rfl, rfl, rfl⟩), { State.reset with standing := .again [] }, rfl,
    .inr (.inr ⟨rfl, .inr rfl, rfl, rfl⟩)⟩, ?_⟩
  decide

set_option maxRecDepth 8000 in
/-- The environment's events, scheduled and repeated; lines of 255 and of 256 bytes. -/
theorem test_witness_EnvironmentEventsChangeTheirOwn :
    (∀ e, ∃ u, upcoming { State.reset with agenda := [e] } e u) ∧
      (∀ e, ∃ u, upcoming { State.reset with standing := .again [e] } e u) ∧
      (∀ l ∈ [longest], l.length ≤ 255) ∧ ∃ l ∈ [tooLong], 255 < l.length := by
  refine ⟨fun e => ⟨_, .inl ⟨_, .inl rfl, rfl⟩⟩, fun e => ⟨_, .inl ⟨_, .inr ⟨rfl, rfl⟩, rfl⟩⟩, ?_, ?_⟩ <;>
    simp [longest, tooLong]

set_option maxRecDepth 8000 in
/-- A step that faults, one refused for its bytes, and one refused for its operands. -/
theorem test_witness_StepStopsOnlyOnAnUnsoundEvent :
    step { State.reset with agenda := [.present [tooLong]] } = .fault .lineTooLong ∧
      step { State.reset with agenda := [.access (.hostSend .upload [])] } =
        .refused (.undecodable .notAFrame) ∧
      step { State.reset with agenda := [.access (.hostRaw [])] } =
        .refused (.illFormed (.chanWrite [])) :=
  ⟨rfl, rfl, rfl⟩

theorem test_witness_DecodeInvertsEncode :
    (Instr.fReply 65535 0 [0x41]).wellFormed = true ∧
      encode (.fReq6 1) = some (.hostSend .download [0x75, 0x65, 0x00, 0x01, 0xD3, 0xCB]) ∧
      encode (.wrreg 8 0x100) = some (.hostWrite 8 0x100) := by
  decide

/-- An upload at its last packet, in each of its states. -/
theorem sessionInv_upload :
    SessionInv { up .sending 1 1 with progress := 0 } ∧
      SessionInv { up .awaitingAck 65535 65535 with
        progress := 99, lineValid := true, rxb := [0x75, 0x65, 0xFF, 0xFF, 0xA3, 0x0B] } ∧
      SessionInv { up .done 65535 65535 with progress := 100 } ∧
      SessionInv { up .terminated 1 1 with progress := 100 } := by
  refine ⟨?_, ?_, ?_, ?_⟩ <;> constructor <;> simp [up, State.reset]

/-- A download whose reply is in RXB (V123), and one that failed. -/
theorem sessionInv_download :
    SessionInv { down .awaitingReply 1 0 with
        totalValid := false
        rxb := [0x75, 0x65, 0x00, 0x01, 0x00, 0x05, 0x02, 0x4C, 0x31, 0x4C, 0xC9] } ∧
      SessionInv { down .failed 3 5 with
        failReason := some .cancelled, cancelPend := true, log := [[0x4C], [0x4C]] } := by
  refine ⟨?_, ?_⟩ <;> constructor <;> simp [down, State.reset]

/-- A step from a sound state: UL_POLL at SEQ 65535, and DL_POLL at SEQ 1. -/
theorem test_witness_EveryStepKeepsTheSessionInvariant :
    (∃ s t, SessionInv s ∧ s.phase = .awaitingAck ∧ step s = .next t) ∧
      ∃ s t, SessionInv s ∧ s.phase = .awaitingReply ∧ step s = .next t :=
  ⟨⟨_, _, sessionInv_upload.2.1, rfl, rfl⟩, ⟨_, _, sessionInv_download.1, rfl, rfl⟩⟩

/-- A byte arrives at a buffer with one place left. -/
theorem test_witness_EveryStepKeepsTheBufferBounds :
    ∃ s t, BufferInv s ∧ s.rxbCap = some 2 ∧ s.rxb.length = 1 ∧ step s = .next t := by
  refine ⟨{ State.reset with
    rxbCap := some 2, rxb := [0x01], txp := [(0, 0x41), (254, 0x42)], src := [[0x61]]
    agenda := [.access (.byteArrives 0x02)] }, _, ?_, rfl, rfl, rfl⟩
  constructor <;> simp [Memory.wf, Memory.wfFrom, Memory.size, Memory.unlisted]

/-- CLEAR and hardware reset from the two terminal states. -/
theorem test_witness_TerminalStatesAreLeftOnlyByClearOrReset :
    (∃ s t : State, s.ended ∧ s.phase = .terminated ∧ step s = .next t ∧ t.phase ≠ s.phase) ∧
      ∃ s t : State, s.ended ∧ s.phase = .failed ∧ step s = .next t ∧ t.phase ≠ s.phase :=
  ⟨⟨{ up .terminated 1 1 with agenda := [.access (.hostWrite 0 0x0005)] }, _, .inl rfl, rfl, rfl,
      by decide⟩,
    ⟨{ up .failed 1 1 with agenda := [.hwReset] }, _, .inr rfl, rfl, rfl, by decide⟩⟩

/-- A step of each kind the statement names: SEQ kept; advanced by a turn and by the bits of a poll; set to
1 by either START; set to 0 by CLEAR and by reset. -/
theorem test_witness_CursorAdvancesOnlyOnAcceptedFrames :
    (∃ t, step (up .sending 2 3) = .next t ∧ t.seq = 2) ∧
      (∃ t, step { up .awaitingAck 2 3 with rxb := [0x75, 0x65, 0x00, 0x02, 0xD2, 0x8B] } = .next t ∧
        t.seq = 3) ∧
      (∃ t, step { down .awaitingReply 1 0 with
          rxb := [0x75, 0x65, 0x00, 0x01, 0x00, 0x05, 0x02, 0x4C, 0x31, 0x4C, 0xC9]
          agenda := [.access (.dispatch 0b1100)] } = .next t ∧ t.seq = 2) ∧
      (∃ t, step { State.reset with total := 1, agenda := [.access (.hostWrite 0 0x0001)] } = .next t ∧
        t.seq = 1) ∧
      (∃ t, step { State.reset with agenda := [.access (.hostWrite 0 0x0012)] } = .next t ∧ t.seq = 1) ∧
      (∃ t, step { up .failed 2 3 with agenda := [.access (.hostWrite 0 0x0005)] } = .next t ∧
        t.seq = 0) ∧
      ∃ t, step { up .sending 2 3 with standing := .again [.hwReset] } = .next t ∧ t.seq = 0 :=
  ⟨⟨_, rfl, rfl⟩, ⟨_, rfl, by decide⟩, ⟨_, rfl, by decide⟩, ⟨_, rfl, rfl⟩, ⟨_, rfl, rfl⟩, ⟨_, rfl, rfl⟩,
    ⟨_, rfl, rfl⟩⟩

theorem test_witness_UploadProgressNeverFalls :
    ∃ s t, SessionInv s ∧ step s = .next t ∧ s.mode = .upload ∧ s.phase = .awaitingAck ∧
      t.phase ≠ .idle :=
  ⟨_, _, sessionInv_upload.2.1, rfl, rfl, rfl, by decide⟩

/-- The START_DL that empties LOG, and a request. -/
theorem test_witness_HistoriesOnlyGrow :
    (∃ s t : State, step s = .next t ∧ ¬ comesNext s .hwReset ∧ s.log = [[0x41]] ∧ t.log = []) ∧
      ∃ s t : State, step s = .next t ∧ ¬ comesNext s .hwReset ∧ t.out ≠ [] :=
  ⟨⟨{ State.reset with log := [[0x41]], agenda := [.access (.hostWrite 0 0x0002)] }, _, rfl,
      by simp [comesNext, upcoming], rfl, rfl⟩,
    ⟨down .requesting 1 1, _, rfl, by simp [comesNext, upcoming, down, State.reset], by decide⟩⟩

/-- A corrupted acknowledgement (V61), and an empty poll. -/
theorem test_witness_RetryWritesTheIdenticalFrame :
    (let s := { up .sending 1 1 with src := [[0x61]] };
      s.phase = .sending ∧ s.cancelPend = false ∧ s.chan = .ok ∧
        decAck [0x75, 0x65, 0x00, 0x01, 0xD3, 0xCA] s.seq = .err .checksumMismatch) ∧
      (let s := down .requesting 1 1;
        s.phase = .requesting ∧ s.cancelPend = false ∧ s.chan = .ok ∧
          decReply [] s.seq = .err .syncNotFound) := by
  decide

/-- An upload of one line and the longest, of 65535. -/
theorem test_witness_UploadCompletesWithPromptAcks :
    let s : Nat → State := fun n => { up .sending 1 (BitVec.ofNat 16 n) with agenda := promptAcks n ++ [] }
    ∀ n, n = 1 ∨ n = 65535 →
      (s n).phase = .sending ∧ (s n).mode = .upload ∧ (s n).seq = 1 ∧ (s n).total.toNat = n ∧ 1 ≤ n ∧
        (s n).cancelPend = false ∧ (s n).lineValid = false ∧ (s n).chan = .ok ∧ (s n).rxbCap = none ∧
        (s n).rxb = [] ∧ (s n).txp.wf = true ∧ (s n).agenda = promptAcks n ++ [] := by
  intro s n hn
  refine ⟨rfl, rfl, rfl, ?_, by omega, rfl, rfl, rfl, rfl, rfl, rfl, rfl⟩
  rcases hn with rfl | rfl <;> rfl

set_option maxRecDepth 8000 in
/-- A download of one line with the count of the replies, and of one with the announced count. -/
theorem test_witness_DownloadCompletesWithPromptReplies :
    let s : CountSrc → State := fun c =>
      { down .requesting 1 1 with countSrc := c, agenda := promptReplies [longest] ++ [] }
    ∀ c, (s c).phase = .requesting ∧ (s c).mode = .download ∧ (s c).seq = 1 ∧ 1 ≤ [longest].length ∧
      [longest].length ≤ 65535 ∧ (∀ l ∈ [longest], 1 ≤ l.length ∧ l.length ≤ 255) ∧
      (c = .text → (s c).total.toNat = [longest].length) ∧ (s c).cancelPend = false ∧
      (s c).chan = .ok ∧ (s c).rxbCap = none ∧ (s c).rxb = [] ∧ (s c).log = [] ∧
      (s c).agenda = promptReplies [longest] ++ [] := by
  intro s c
  refine ⟨rfl, rfl, rfl, by simp, by simp, by simp [longest], fun _ => rfl, rfl, rfl, rfl, rfl, rfl, rfl⟩

/-- Every operation has an operand that runs: the statements without hypotheses need none. -/
theorem test_witness_EveryOperationAnswersANextState : ∃ t, exec .closeReq .reset = .next t := ⟨_, rfl⟩

end Sys2Proof.Tests
end

section
/-! PROOFS. Every operation answers a next state (R11). -/

namespace Sys2Proof.Machine

/-! ### The guarded steps of the sequencers: the step where STATE enables it, else the state (R200, R230) -/

theorem execUlSend_eq (s : State) :
    execUlSend s = .next (if s.phase = .sending then ulSend s else s) :=
  (apply_ite _ _ _ _).symm

theorem execUlPoll_eq (s : State) :
    execUlPoll s = .next (if s.phase = .awaitingAck then ulPoll s else s) :=
  (apply_ite _ _ _ _).symm

theorem execUlDone_eq (s : State) :
    execUlDone s = .next (if s.phase = .done ∧ s.mode = .upload then ulDone s else s) :=
  (apply_ite _ _ _ _).symm

theorem execDlReq_eq (s : State) :
    execDlReq s = .next (if s.phase = .requesting then dlReq s else s) :=
  (apply_ite _ _ _ _).symm

theorem execDlPoll_eq (s : State) :
    execDlPoll s = .next (if s.phase = .awaitingReply then dlPoll s else s) :=
  (apply_ite _ _ _ _).symm

theorem execDlDone_eq (s : State) :
    execDlDone s = .next (if s.phase = .done ∧ s.mode = .download then dlDone s else s) :=
  (apply_ite _ _ _ _).symm

/-- Settles O46: the six steps that a STATE enables answer on both sides of their guard, and every other
operation is by definition a next state. -/
theorem everyOperationAnswersANextState : Obligations.EveryOperationAnswersANextState := by
  intro i s
  cases i with
  | ulSend => exact ⟨_, execUlSend_eq s⟩
  | ulPoll => exact ⟨_, execUlPoll_eq s⟩
  | ulDone => exact ⟨_, execUlDone_eq s⟩
  | dlReq => exact ⟨_, execDlReq_eq s⟩
  | dlPoll => exact ⟨_, execDlPoll_eq s⟩
  | dlDone => exact ⟨_, execDlDone_eq s⟩
  | _ => exact ⟨_, rfl⟩

end Sys2Proof.Machine
end

section
/-! PROOFS. The event that comes next, and the step at an access (R10, R109; logs 1, 2, 13). -/

namespace Sys2Proof.Machine

open Sys2Proof.Claims

/-! ### The next event, in the words of the statements -/

/-- What the statements call the upcoming event is what the machine takes. -/
theorem upcoming_iff_nextEvent {s u : State} {e : Event} : upcoming s e u ↔ nextEvent s = (e, u) := by
  constructor
  · rintro (⟨rest, ha | ⟨ha, hw⟩, rfl⟩ | ⟨ha, k, hw, rfl, rfl⟩ | ⟨ha, hw, rfl, rfl⟩)
    · exact nextEvent_scheduled ha
    · exact nextEvent_again ha hw
    · exact nextEvent_free ha hw
    · exact nextEvent_idle ha hw
  · intro h
    cases ha : s.agenda with
    | cons e' rest =>
      cases (nextEvent_scheduled ha).symm.trans h
      exact .inl ⟨rest, .inl ha, rfl⟩
    | nil =>
      cases hw : s.standing with
      | idle =>
        cases (nextEvent_idle ha (.inl hw)).symm.trans h
        exact .inr (.inr ⟨ha, .inl hw, rfl, rfl⟩)
      | again events =>
        cases events with
        | nil =>
          cases (nextEvent_idle ha (.inr hw)).symm.trans h
          exact .inr (.inr ⟨ha, .inr hw, rfl, rfl⟩)
        | cons e' rest =>
          cases (nextEvent_again ha hw).symm.trans h
          exact .inl ⟨rest, .inr ⟨ha, hw⟩, rfl⟩
      | free k =>
        cases (nextEvent_free ha hw).symm.trans h
        exact .inr (.inl ⟨ha, k, hw, rfl, rfl⟩)

/-- An access that comes next and decodes to a well-formed operation runs it. -/
theorem step_upcoming_access {s u : State} {a : Access} {i : Instr} (h : upcoming s (.access a) u)
    (hd : decode a = .ok i) (hw : i.wellFormed = true) : step s = exec i u :=
  step_access (upcoming_iff_nextEvent.mp h) rfl hd hw

/-! ### Host reads: the operation decoded for register `n` is well formed and means RDREG `n` -/

theorem decodeRead_wellFormed (n : Nat) : (decodeRead n).wellFormed = true := by
  unfold decodeRead
  split
  case isTrue => rfl
  case isFalse hn => simpa [Instr.wellFormed] using hn

/-- STATUS_LAYOUT is the read of register 1 (R41, R261). -/
theorem exec_decodeRead (n : Nat) (s : State) : exec (decodeRead n) s = exec (.rdreg n) s := by
  unfold decodeRead
  split
  case isTrue hn => subst hn; rfl
  case isFalse => rfl

/-! ### Command words -/

/-- A command word runs as its row says (R262 to R271). -/
theorem exec_instrOfCommand (c : Command) (s : State) :
    exec (instrOfCommand c) s = .next (runCommand c s) := by
  cases c <;> rfl

/-- The three grounds of R271, as propositions about the word's fields. -/
theorem isReservedWord_iff (w : Word) :
    isReservedWord w = true ↔
      7 ≤ (w.extractLsb' 0 4).toNat ∨ w.extractLsb' 6 10 ≠ 0 ∨
        (w.getLsbD 4 || w.getLsbD 5) = true ∧ (w.extractLsb' 0 4).toNat ≠ 2 := by
  simp only [isReservedWord, Bool.or_eq_true, Bool.and_eq_true, decide_eq_true_eq, bne_iff_ne, or_assoc]

/-- `commandOf` reads as reserved only the words that R271 names. -/
theorem isReservedWord_of_commandOf {w x : Word} (h : commandOf w = .reserved x) :
    isReservedWord x = true := by
  rw [isReservedWord_iff]
  unfold commandOf at h
  split at h
  case isTrue hbits => cases h; exact .inr (.inl hbits)
  case isFalse =>
    split at h
    case isTrue => cases h
    case isFalse h2 =>
      have hop : (w.extractLsb' 0 4).toNat ≠ 2 := fun e => h2 (BitVec.eq_of_toNat_eq e)
      split at h
      case isTrue hb => cases h; exact .inr (.inr ⟨hb, hop⟩)
      case isFalse =>
        split at h
        case h_7 => cases h; left; grind
        all_goals cases h

theorem instrOfCommand_wellFormed (w : Word) : (instrOfCommand (commandOf w)).wellFormed = true := by
  cases hc : commandOf w with
  | reserved x => exact isReservedWord_of_commandOf hc
  | _ => rfl

/-! ### Host writes: the operation decoded for `n` and `v` is well formed and means WRREG `n`, `v` -/

/-- What a host write decodes to: WRREG, or the more specific row of a register whose width `v` fits. -/
theorem decodeWrite_cases (n v : Nat) :
    (isPlainWrite n v = true ∧ decodeWrite n v = .wrreg n v) ∨
      (n = 0 ∧ v < 2 ^ 16 ∧ decodeWrite n v = instrOfCommand (commandOf (BitVec.ofNat 16 v))) ∨
      (n = 3 ∧ v < 2 ^ 16 ∧ decodeWrite n v = .wrregTotal (BitVec.ofNat 16 v)) ∨
      (n = 6 ∧ v < 2 ^ 17 ∧ decodeWrite n v = .wrregTrig (BitVec.ofNat 17 v)) ∨
      (n = 8 ∧ v < 2 ^ 8 ∧ decodeWrite n v = .crcPush (BitVec.ofNat 8 v)) := by
  cases hp : isPlainWrite n v with
  | true => exact .inl ⟨rfl, by simp [decodeWrite, hp]⟩
  | false =>
    have hd := hp
    unfold isPlainWrite at hp
    split at hp
    · exact .inr (.inl ⟨rfl, by simpa using hp, by simp [decodeWrite, hd]⟩)
    · exact .inr (.inr (.inl ⟨rfl, by simpa using hp, by simp [decodeWrite, hd]⟩))
    · exact .inr (.inr (.inr (.inl ⟨rfl, by simpa using hp, by simp [decodeWrite, hd]⟩)))
    · exact .inr (.inr (.inr (.inr ⟨rfl, by simpa using hp, by simp [decodeWrite, hd]⟩)))
    · cases hp

theorem decodeWrite_wellFormed (n v : Nat) : (decodeWrite n v).wellFormed = true := by
  rcases decodeWrite_cases n v with ⟨hp, hd⟩ | ⟨-, -, hd⟩ | ⟨-, -, hd⟩ | ⟨-, -, hd⟩ | ⟨-, -, hd⟩ <;>
    rw [hd]
  · exact hp
  · exact instrOfCommand_wellFormed _
  · rfl
  · rfl
  · rfl

section
variable (s : State)

/-- A command word written to CMD runs its command (R262). -/
theorem exec_wrreg_cmd {v : Nat} (hv : v < 2 ^ 16) :
    exec (.wrreg 0 v) s = .next (runCommand (commandOf (BitVec.ofNat 16 v)) s) :=
  congrArg Host.Outcome.next (if_neg (by omega))

theorem exec_wrregTotal (v : Word) : exec (.wrregTotal v) s = exec (.wrreg 3 v.toNat) s := rfl

theorem exec_wrregTrig (v : TrigWord) : exec (.wrregTrig v) s = exec (.wrreg 6 v.toNat) s := rfl

theorem exec_crcPush (b : Byte) : exec (.crcPush b) s = exec (.wrreg 8 b.toNat) s := rfl

/-- The rows that fit a register's width are WRREG of that register (R262, R270, R274, R275). -/
theorem exec_decodeWrite (n v : Nat) : exec (decodeWrite n v) s = exec (.wrreg n v) s := by
  rcases decodeWrite_cases n v with ⟨-, hd⟩ | ⟨rfl, hv, hd⟩ | ⟨rfl, hv, hd⟩ | ⟨rfl, hv, hd⟩ |
    ⟨rfl, hv, hd⟩ <;> rw [hd]
  · rw [exec_instrOfCommand, exec_wrreg_cmd s hv]
  · rw [exec_wrregTotal, BitVec.toNat_ofNat, Nat.mod_eq_of_lt hv]
  · rw [exec_wrregTrig, BitVec.toNat_ofNat, Nat.mod_eq_of_lt hv]
  · rw [exec_crcPush, BitVec.toNat_ofNat, Nat.mod_eq_of_lt hv]

end

/-- Settles O42: the access clause is `step_upcoming_access`; a host read or write decodes to a well-formed
operation that means RDREG or WRREG. -/
theorem stepRunsTheDecodedOperation : Obligations.StepRunsTheDecodedOperation := by
  intro s u
  refine ⟨fun a i h hd hw => step_upcoming_access h hd hw, fun n h => ?_, fun n v h => ?_⟩
  · calc
      step s = exec (decodeRead n) u := step_upcoming_access h rfl (decodeRead_wellFormed n)
      _ = exec (.rdreg n) u := exec_decodeRead n u
  · calc
      step s = exec (decodeWrite n v) u := step_upcoming_access h rfl (decodeWrite_wellFormed n v)
      _ = exec (.wrreg n v) u := exec_decodeWrite u n v

end Sys2Proof.Machine
end

section
/-! PROOFS. What a step can do, once for every step: nothing to the session, one of the sequencers' steps,
a command, a write of TOTAL, or hardware reset (R10, R22). -/

namespace Sys2Proof.Machine

open Sys2Proof.Claims

/-! ### Steps that leave the session alone -/

/-- `t` is `s` but for fields that belong to no session; OUT may have grown. -/
inductive Quiet (s : State) : State → Prop
  | mk {err : Bool} {trig : TrigWord} {acc : Word} {rxb : Bytes} {out : List OutEvent} {src : List Bytes}
      {chan : ChanAnswer} {ret : Ret} (grows : s.out <+: out) :
      Quiet s
        { s with
          cmdErr := err, trig := trig, crcAcc := acc, rxb := rxb, out := out, src := src, chan := chan
          ret := ret }

section
variable (s : State)

theorem Quiet.refl : Quiet s s := .mk (List.prefix_refl _)

theorem quiet_setRet (r : Ret) : Quiet s (setRet r s) := .mk (List.prefix_refl _)

theorem quiet_refuse : Quiet s (refuse s) := .mk (List.prefix_refl _)

/-- The host's drain (R66, R80). -/
theorem quiet_drain (r : Ret) : Quiet s (setRet r (chanDrain s).2) := .mk (List.prefix_refl _)

/-- The host's write on the channel (R65, R80). -/
theorem quiet_write (r : Ret) (bs : Bytes) : Quiet s (setRet r (chanWrite bs s).2) :=
  .mk (List.prefix_append _ _)

theorem quiet_rxArriveAll (bs : Bytes) : Quiet s (rxArriveAll bs s) := by
  obtain ⟨r, hr⟩ := rxArriveAll_only_rxb bs s
  rw [hr]
  exact .mk (List.prefix_refl _)

/-- A register write that is accepted quietly or refused. -/
theorem quiet_ite {c : Prop} [Decidable c] {t : State} (h : Quiet s t) :
    Quiet s (if c then t else refuse s) := by
  split
  · exact h
  · exact quiet_refuse s

theorem quiet_writeTrig (v : Nat) : Quiet s (writeTrig v s) := by
  unfold writeTrig
  split
  · exact quiet_refuse s
  · exact quiet_ite s (.mk (List.prefix_refl _))

theorem quiet_writeCrcData (v : Nat) : Quiet s (writeCrcData v s) := by
  unfold writeCrcData
  split
  · exact quiet_refuse s
  · split
    · exact quiet_refuse s
    · exact .mk (List.prefix_refl _)

end

/-! ### The moves -/

/-- What the event `e` can make of the state `s` (with `e` taken). -/
inductive Move (e : Event) (s : State) : State → Prop
  | quiet {t : State} (h : Quiet s t) : Move e s t
  | ulSend (hp : s.phase = .sending) : Move e s (ulSend s)
  | ulPoll (he : sequencerEvent 2 e) (hp : s.phase = .awaitingAck) : Move e s (ulPoll s)
  | ulDone (hp : s.phase = .done) (hm : s.mode = .upload) : Move e s (ulDone s)
  | dlReq (hp : s.phase = .requesting) : Move e s (dlReq s)
  | dlPoll (he : sequencerEvent 4 e) (hp : s.phase = .awaitingReply) : Move e s (dlPoll s)
  | dlDone (hp : s.phase = .done) (hm : s.mode = .download) : Move e s (dlDone s)
  | startUl (he : e = .access (.hostWrite 0 0x0001)) (hp : s.phase = .idle) (ht : s.total ≠ 0) :
      Move e s (ulStart s)
  | startDl {q : Bool} {c : CountSrc} (he : ∃ w ∈ startDownloadWords, e = .access (.hostWrite 0 w))
      (hp : s.phase = .idle) (ht : c = .text → s.total ≠ 0) : Move e s (dlStart q c s)
  | cancel (hp : phaseActive s.phase = true) : Move e s { s with cancelPend := true }
  | abortProto (hp : s.phase = .idle) : Move e s (fail .protocolError s)
  | clear (he : e = .access (.hostWrite 0 0x0005)) (hp : phaseActive s.phase = false) :
      Move e s (clearSession s)
  | writeTotal {v : Word} (hp : s.phase = .idle) : Move e s { s with total := v }
  | hwReset (he : e = .hwReset) : Move e s (hwReset s)

/-! ### Command words: the word is the one of its command (R106, R107, R271) -/

/-- A word is its four fields: OP, the two operand bits of START_DL, and bits 15:6. -/
theorem word_fields (w : Word) :
    w.toNat = (w.extractLsb' 6 10).toNat * 64 + (w.getLsbD 5).toNat * 32 + (w.getLsbD 4).toNat * 16 +
      (w.extractLsb' 0 4).toNat := by
  have hw := w.isLt
  have high : (w.extractLsb' 6 10).toNat = w.toNat / 64 := by
    rw [BitVec.extractLsb'_toNat, Nat.shiftRight_eq_div_pow]
    omega
  have low : (w.extractLsb' 0 4).toNat = w.toNat % 16 := by simp [BitVec.extractLsb'_toNat]
  have bit4 : (w.getLsbD 4).toNat = w.toNat / 16 % 2 := Nat.toNat_testBit w.toNat 4
  have bit5 : (w.getLsbD 5).toNat = w.toNat / 32 % 2 := Nat.toNat_testBit w.toNat 5
  omega

theorem commandWord_commandOf (w : Word) : commandWord (commandOf w) = w := by
  have hw : BitVec.ofNat 16 _ = w := (congrArg (BitVec.ofNat 16) (word_fields w).symm).trans (by simp)
  unfold commandOf
  split
  case isTrue => rfl
  case isFalse hz =>
    rw [not_not.mp hz] at hw
    split
    case isTrue hop =>
      rw [hop] at hw
      rw [← hw]
      cases w.getLsbD 4 <;> cases w.getLsbD 5 <;> rfl
    case isFalse =>
      split
      case isTrue => rfl
      case isFalse hb =>
        obtain ⟨h4, h5⟩ : w.getLsbD 4 = false ∧ w.getLsbD 5 = false := by simpa using hb
        rw [h4, h5] at hw
        split
        case h_7 => rfl
        all_goals
          rename_i hop
          rw [hop] at hw
          exact hw

/-- The words of START_DL, one for each of its two operand bits. -/
theorem startDl_word_mem (q : Bool) (c : CountSrc) :
    (commandWord (.startDl q c)).toNat ∈ startDownloadWords := by
  cases q <;> cases c <;> decide

theorem move_command (w : Word) (s : State) :
    Move (.access (.hostWrite 0 w.toNat)) s (runCommand (commandOf w) s) := by
  have hw := commandWord_commandOf w
  generalize commandOf w = c at hw
  subst hw
  cases c with
  | nop => exact .quiet (.refl s)
  | startUl =>
    simp only [runCommand, cmdStartUl]
    split
    case isTrue => exact .quiet (quiet_refuse s)
    case isFalse hp =>
      split
      case isTrue => exact .quiet (quiet_refuse s)
      case isFalse ht => exact .startUl rfl (not_not.mp hp) ht
  | startDl q c =>
    simp only [runCommand, cmdStartDl]
    split
    case isTrue => exact .quiet (quiet_refuse s)
    case isFalse hp =>
      split
      case isTrue => exact .quiet (quiet_refuse s)
      case isFalse ht =>
        exact .startDl ⟨_, startDl_word_mem q c, rfl⟩ (not_not.mp hp) fun hc h0 => ht ⟨hc, h0⟩
  | cancel =>
    simp only [runCommand, cmdCancel]
    split
    case isTrue hp => exact .cancel hp
    case isFalse => exact .quiet (.refl s)
  | abortProto =>
    simp only [runCommand, cmdAbortProto]
    split
    case isTrue => exact .quiet (quiet_refuse s)
    case isFalse hp => exact .abortProto (not_not.mp hp)
  | clear =>
    simp only [runCommand, cmdClear]
    split
    case isTrue => exact .quiet (quiet_refuse s)
    case isFalse hp => exact .clear rfl (Bool.eq_false_of_not_eq_true hp)
  | crcClr =>
    simp only [runCommand, cmdCrcClr]
    split
    case isTrue => exact .quiet (quiet_refuse s)
    case isFalse => exact .quiet (.mk (List.prefix_refl _))
  | reserved _ => exact .quiet (quiet_refuse s)

/-! ### Register writes (R262) -/

theorem move_writeTotal (e : Event) (v : Nat) (s : State) : Move e s (writeTotal v s) := by
  unfold Machine.writeTotal
  split
  case isTrue => exact .quiet (quiet_refuse s)
  case isFalse =>
    split
    case isTrue hp => exact .writeTotal hp
    case isFalse => exact .quiet (quiet_refuse s)

theorem move_writeCmd (v : Nat) (s : State) : Move (.access (.hostWrite 0 v)) s (writeCmd v s) := by
  unfold writeCmd
  split
  case isTrue => exact .quiet (quiet_refuse s)
  case isFalse hv =>
    have hw : (BitVec.ofNat 16 v).toNat = v := Nat.mod_eq_of_lt (by omega)
    simpa only [hw] using move_command (BitVec.ofNat 16 v) s

theorem move_writeReg (n v : Nat) (s : State) :
    Move (.access (.hostWrite n v)) s (writeReg n v s) := by
  unfold writeReg
  split
  · exact move_writeCmd v s
  · exact move_writeTotal _ v s
  · exact .quiet (quiet_writeTrig s v)
  · exact .quiet (quiet_writeCrcData s v)
  · exact .quiet (quiet_refuse s)

/-! ### The sequencer's steps (R200, R230) -/

theorem toNat_mod_eight_of_and {st : BitVec 4} {n : BitVec 4} (h : st &&& 0x7 = n) :
    st.toNat % 8 = n.toNat := by
  subst h
  revert st
  decide

/-- A step behind its guard is the step, or nothing where STATE does not enable it. -/
theorem move_guarded {e : Event} {s t x : State} {r : Result} {c : Prop} [Decidable c]
    (hr : r = .next (if c then x else s)) (ht : r = .next t) (h : c → Move e s x) : Move e s t := by
  cases hr.symm.trans ht
  split
  case isTrue hc => exact h hc
  case isFalse => exact .quiet (.refl s)

theorem move_dispatch {e : Event} {s t : State} {st : BitVec 4} {i : Instr}
    (he : e = .turn ∨ e = .access (.dispatch st)) (hd : decodeDispatch st = .ok i)
    (hx : exec i s = .next t) : Move e s t := by
  have event {n : BitVec 4} (h : st &&& 0x7 = n) : sequencerEvent n.toNat e :=
    he.imp_right fun h' => ⟨st, toNat_mod_eight_of_and h, h'⟩
  unfold decodeDispatch at hd
  split at hd
  case isTrue => cases hd; exact move_guarded (execUlSend_eq s) hx .ulSend
  split at hd
  case isTrue h => cases hd; exact move_guarded (execUlPoll_eq s) hx (.ulPoll (event h))
  split at hd
  case isTrue => cases hd; exact move_guarded (execDlReq_eq s) hx .dlReq
  split at hd
  case isTrue h => cases hd; exact move_guarded (execDlPoll_eq s) hx (.dlPoll (event h))
  split at hd
  case isTrue => cases hd; exact move_guarded (execUlDone_eq s) hx fun h => .ulDone h.1 h.2
  split at hd
  case isTrue => cases hd; exact move_guarded (execDlDone_eq s) hx fun h => .dlDone h.1 h.2
  cases hd

/-! ### Frames and evaluations -/

/-- A frame the host sends is written on the channel (log 3). -/
theorem exec_decodeHostSend {m : Mode} {bs : Bytes} {i : Instr} (h : decodeHostSend m bs = .ok i)
    (s : State) : ∃ bs', exec i s = sendBytes bs' s := by
  unfold decodeHostSend at h
  split at h
  · cases h; exact ⟨_, rfl⟩
  · cases h; exact ⟨_, rfl⟩
  · cases h; exact ⟨_, rfl⟩
  · split at h
    · cases h; exact ⟨_, rfl⟩
    · rw [(checkedFrame_ok h).1]; exact ⟨_, rfl⟩
  · split at h
    · cases h; exact ⟨_, rfl⟩
    · unfold decodeRequest at h
      split at h
      · cases h; exact ⟨_, rfl⟩
      · rw [(checkedFrame_ok h).1]; exact ⟨_, rfl⟩

/-- A frame the device sends arrives in RXB (log 3). -/
theorem exec_decodeDeviceSend {m : Mode} {bs : Bytes} {i : Instr} (h : decodeDeviceSend m bs = .ok i)
    (s : State) : ∃ bs', exec i s = .next (rxArriveAll bs' s) := by
  cases m with
  | upload => rw [(checkedFrame_ok h).1]; exact ⟨_, rfl⟩
  | download => rw [(checkedFrame_ok h).1]; exact ⟨_, rfl⟩

/-- An evaluated function returns its value and does no more (log 15). -/
theorem exec_functionRow {i : Instr} (h : isFunctionRow i = true) (s : State) :
    ∃ r, exec i s = .next (setRet r s) := by
  cases i <;> first | cases h; done | exact ⟨_, rfl⟩

/-! ### Every step is a move -/

/-- The event an access comes from: the turn, or the access itself. -/
theorem accessOf_cases {e : Event} {s : State} {a : Access} (h : accessOf e s = some a) :
    (e = .turn ∧ a = .dispatch (dispatchBits s)) ∨ e = .access a := by
  cases e <;> simp [accessOf] at h <;> simp [h]

theorem move_access {a : Access} {s t : State} {i : Instr} (hd : decode a = .ok i)
    (hx : exec i s = .next t) : Move (.access a) s t := by
  cases a with
  | dispatch st => exact move_dispatch (.inr rfl) hd hx
  | hostRead n =>
    cases hd
    cases (exec_decodeRead n s).symm.trans hx
    exact .quiet (quiet_setRet s _)
  | hostWrite n v =>
    cases hd
    cases (exec_decodeWrite s n v).symm.trans hx
    exact move_writeReg n v s
  | hostSend m bs =>
    obtain ⟨bs', h⟩ := exec_decodeHostSend hd s
    cases h.symm.trans hx
    exact .quiet (quiet_write s _ bs')
  | hostRaw bs => cases hd; cases hx; exact .quiet (quiet_write s _ bs)
  | hostDrain => cases hd; cases hx; exact .quiet (quiet_drain s _)
  | deviceSend m bs =>
    obtain ⟨bs', h⟩ := exec_decodeDeviceSend hd s
    cases h.symm.trans hx
    exact .quiet (quiet_rxArriveAll s bs')
  | byteArrives b => cases hd; cases hx; exact .quiet (quiet_rxArriveAll s [b])
  | evaluate j =>
    cases hj : isFunctionRow j <;> simp [decode, hj] at hd
    subst hd
    obtain ⟨r, h⟩ := exec_functionRow hj s
    cases h.symm.trans hx
    exact .quiet (quiet_setRet s r)

theorem stepOn_move {e : Event} {s t : State} (h : stepOn e s = .next t) : Move e s t := by
  rcases stepOn_cases h with ⟨a, i, ha, hd, -, hx⟩ | ⟨-, -, -, rfl⟩ | ⟨-, -, rfl⟩ | ⟨-, -, -, rfl⟩ |
    ⟨he, rfl⟩
  · rcases accessOf_cases ha with ⟨he, rfl⟩ | rfl
    · exact move_dispatch (.inl he) hd hx
    · exact move_access hd hx
  · exact .quiet (.refl _)
  · exact .quiet (.mk (List.prefix_refl _))
  · exact .quiet (.mk (List.prefix_refl _))
  · exact .hwReset he

/-- What a step can do: it takes the next event, which touches `agenda` and `standing` alone, and makes
the move of that event. -/
theorem step_move {s t : State} (h : step s = .next t) :
    ∃ e agenda standing, upcoming s e { s with agenda := agenda, standing := standing } ∧
      Move e { s with agenda := agenda, standing := standing } t := by
  have hu := nextEvent_snd s
  refine ⟨(nextEvent s).1, _, _, hu ▸ upcoming_iff_nextEvent.mpr rfl, ?_⟩
  exact hu ▸ stepOn_move ((step_eq rfl).symm.trans h)

end Sys2Proof.Machine
end

section
/-! PROOFS. For each part of the sequencers' steps one lemma that says what it can write, in the numbers of
SEQ and TOTAL (R202, R203, R233, R235, R237). -/

namespace Sys2Proof.Machine

/-! ### SEQ against TOTAL -/

section
variable {seq total : Word}

/-- Below the total progress is the truncated quotient, for the clamp is not reached. -/
theorem prog_toNat_of_lt (h : seq.toNat < total.toNat) :
    (prog seq total).toNat = 100 * seq.toNat / total.toNat := by
  have ht : total ≠ 0 := by rintro rfl; simp at h
  have hq : 100 * seq.toNat / total.toNat ≤ 100 := Nat.div_le_of_le_mul (by omega)
  rw [prog_toNat, progNat, if_neg ht]
  exact if_neg (by omega)

/-- At or past the total progress is 100. -/
theorem prog_of_le (h : total.toNat ≤ seq.toNat) : prog seq total = 100 := by
  apply BitVec.eq_of_toNat_eq
  rw [prog_toNat, progNat]
  split
  case isTrue => rfl
  case isFalse ht =>
    have hpos : 0 < total.toNat := Nat.pos_iff_ne_zero.mpr fun h0 => ht (BitVec.eq_of_toNat_eq h0)
    have hq : 100 ≤ 100 * seq.toNat / total.toNat := (Nat.le_div_iff_mul_le hpos).mpr (by omega)
    simp only
    split
    case isTrue => rfl
    case isFalse hle => exact Nat.le_antisymm (not_lt.mp hle) hq

/-- SEQ below a total is counted on without wrap. -/
theorem toNat_add_one_of_lt (h : seq.toNat < total.toNat) : (seq + 1).toNat = seq.toNat + 1 := by
  have := total.isLt
  rw [BitVec.toNat_add]
  exact Nat.mod_eq_of_lt (by simp; omega)

theorem lt_of_not_lastPacket (h : ¬ lastPacket seq total = true) : seq.toNat < total.toNat := by
  rw [lastPacket_iff] at h
  omega

end

/-! ### Writes, fetches and accepted frames -/

/-- What holds of a write's continuation and of FAILED, whatever event the write left, holds of the write
(R65, R296). -/
theorem writeOrFail_elim {P : State → Prop} {bs : Bytes} {k : State → State} {s : State}
    (ok : ∀ e, P (k (emit e s))) (err : ∀ e, P (fail .ioError (emit e s))) : P (writeOrFail bs k s) := by
  rcases writeOrFail_cases bs k s with ⟨-, h⟩ | ⟨n, -, h⟩ <;> rw [h]
  · exact ok _
  · exact err _

section
variable (s : State)

/-- The line fetch writes TXLEN and TXP alone and leaves the line held (R202). -/
theorem fetchLine_only :
    ∃ len cells, fetchLine s = { s with txLen := len, txp := cells, lineValid := true } := by
  rcases fetchLine_cases s with ⟨hv, e⟩ | ⟨-, e⟩
  · exact ⟨s.txLen, s.txp, by rw [e, ← hv]⟩
  · exact ⟨_, _, e⟩

/-- An accepted acknowledgement ends the upload or moves SEQ on by one (R203). -/
theorem ackAccepted_cases :
    (s.total.toNat ≤ s.seq.toNat ∧
        ackAccepted s = { s with progress := prog s.seq s.total, phase := .done }) ∨
      (s.seq.toNat < s.total.toNat ∧
        ackAccepted s =
          { s with
            progress := prog s.seq s.total, seq := s.seq + 1, lineValid := false
            phase := .sending }) := by
  unfold ackAccepted
  split
  case isTrue h => exact .inl ⟨(lastPacket_iff _ _).mp h, rfl⟩
  case isFalse h => exact .inr ⟨lt_of_not_lastPacket h, rfl⟩

/-- A reply leaves the total known, or as it was where it was announced (R235). -/
theorem learnTotal_only (n : Word) :
    ∃ total valid, learnTotal n s = { s with total := total, totalValid := valid } ∧
      (valid = true ∨ s.countSrc = .text ∧ valid = s.totalValid) := by
  unfold learnTotal
  split
  case h_1 => exact ⟨n, true, rfl, .inl rfl⟩
  case h_2 ht => exact ⟨s.total, s.totalValid, rfl, .inr ⟨ht, rfl⟩⟩

/-- An accepted reply appends its payload to LOG and ends the download or moves SEQ on by one (R233). -/
theorem replyAccepted_cases (n : Word) (p : Bytes) :
    ∃ total valid, (valid = true ∨ s.countSrc = .text ∧ valid = s.totalValid) ∧
      ((total.toNat ≤ s.seq.toNat ∧
          replyAccepted n p s =
            { s with
              total := total, totalValid := valid, log := s.log ++ [p], progress := prog s.seq total
              phase := .done }) ∨
        (s.seq.toNat < total.toNat ∧
          replyAccepted n p s =
            { s with
              total := total, totalValid := valid, log := s.log ++ [p], progress := prog s.seq total
              seq := s.seq + 1, phase := .requesting })) := by
  obtain ⟨total, valid, hl, hv⟩ := learnTotal_only s n
  refine ⟨total, valid, hv, ?_⟩
  simp only [replyAccepted, hl, logAppend]
  split
  case isTrue h => exact .inl ⟨(lastPacket_iff _ _).mp h, rfl⟩
  case isFalse h => exact .inr ⟨lt_of_not_lastPacket h, rfl⟩

end

end Sys2Proof.Machine
end

section
/-! PROOFS. Every step keeps what ties the session's registers together (R205, R236), and reset meets the
two invariants. -/

namespace Sys2Proof.Machine

open Sys2Proof.Claims

/-! ### Entries to FAILED -/

/-- `fail` reaches a sound state from any that keeps the ranges, the variant bits and LOG: what the other
clauses say is about other states (R305). -/
theorem sessionInv_fail {x : FatalReason} {s : State} (hp : s.progress.toNat ≤ 100)
    (hc : x = .cancelled → s.cancelPend = true)
    (hv : s.mode = .upload → s.reqCrc = false ∧ s.countSrc = .field)
    (hl : ∀ p ∈ s.log, 1 ≤ p.length ∧ p.length ≤ 255) : SessionInv (fail x s) := by
  constructor <;> simp <;> assumption

theorem SessionInv.fail {x : FatalReason} {s : State} (h : SessionInv s)
    (hc : x = .cancelled → s.cancelPend = true) : SessionInv (fail x s) :=
  sessionInv_fail h.progress_le hc h.upload_variant h.log_lines

/-! ### A sound state, by the kind of its STATE -/

section
variable {s : State}

/-- An upload under way: packets before SEQ are in, SEQ is within TOTAL (R205). -/
theorem sessionInv_uploading (hp : s.phase = .sending ∨ s.phase = .awaitingAck)
    (hr : s.failReason = none) (hm : s.mode = .upload) (hv : s.reqCrc = false ∧ s.countSrc = .field)
    (hl : s.phase = .awaitingAck → s.lineValid = true)
    (hc : 1 ≤ s.seq.toNat ∧ s.seq.toNat ≤ s.total.toNat ∧ s.totalValid = true)
    (hg : s.progress.toNat = 100 * (s.seq.toNat - 1) / s.total.toNat)
    (hlog : ∀ p ∈ s.log, 1 ≤ p.length ∧ p.length ≤ 255) : SessionInv s := by
  rcases hp with hp | hp
  all_goals
    exact
      { progress_le := hg ▸ Nat.div_le_of_le_mul (by omega)
        failReason_iff := by simp [hp, hr]
        cancelled_pend := by simp [hr]
        idle_clean := by simp [hp]
        upload_variant := fun _ => hv
        upload_mode := fun _ => hm
        download_mode := by simp [hp]
        line_held := hl
        upload_cursor := fun _ _ => hc
        upload_progress := fun _ => hg
        download_cursor := by simp [hp]
        download_log := by simp [hp]
        download_log_full := by simp [hm]
        finished := by simp [hp]
        log_lines := hlog }

/-- A download under way: LOG holds the packets before SEQ (R236). -/
theorem sessionInv_downloading (hp : s.phase = .requesting ∨ s.phase = .awaitingReply)
    (hr : s.failReason = none) (hm : s.mode = .download) (hg : s.progress.toNat ≤ 100)
    (hc : 1 ≤ s.seq.toNat ∧ (s.totalValid = true → s.seq.toNat ≤ s.total.toNat) ∧
      (s.totalValid = false → s.total = 0) ∧ (s.countSrc = .text → s.totalValid = true))
    (hn : s.log.length + 1 = s.seq.toNat)
    (hlog : ∀ p ∈ s.log, 1 ≤ p.length ∧ p.length ≤ 255) : SessionInv s := by
  rcases hp with hp | hp
  all_goals
    exact
      { progress_le := hg
        failReason_iff := by simp [hp, hr]
        cancelled_pend := by simp [hr]
        idle_clean := by simp [hp]
        upload_variant := by simp [hm]
        upload_mode := by simp [hp]
        download_mode := fun _ => hm
        line_held := by simp [hp]
        upload_cursor := by simp [hm]
        upload_progress := by simp [hp]
        download_cursor := fun _ => hc
        download_log := fun _ => hn
        download_log_full := by simp [hp]
        finished := by simp [hp]
        log_lines := hlog }

/-- The last packet is in (R205, R236, R237). -/
theorem sessionInv_finished (hp : s.phase = .done ∨ s.phase = .terminated)
    (hr : s.failReason = none) (hv : s.mode = .upload → s.reqCrc = false ∧ s.countSrc = .field)
    (hc : s.mode = .upload → s.seq.toNat ≤ s.total.toNat)
    (hn : s.mode = .download → s.log.length = s.seq.toNat)
    (hf : s.progress = 100 ∧ s.totalValid = true ∧ 1 ≤ s.seq.toNat ∧ s.total.toNat ≤ s.seq.toNat)
    (hlog : ∀ p ∈ s.log, 1 ≤ p.length ∧ p.length ≤ 255) : SessionInv s := by
  have ⟨_, htv, h1, _⟩ := hf
  rcases hp with hp | hp
  all_goals
    exact
      { progress_le := by simp [hf]
        failReason_iff := by simp [hp, hr]
        cancelled_pend := by simp [hr]
        idle_clean := by simp [hp]
        upload_variant := hv
        upload_mode := by simp [hp]
        download_mode := by simp [hp]
        line_held := by simp [hp]
        upload_cursor := fun hm _ => ⟨h1, hc hm, htv⟩
        upload_progress := by simp [hp]
        download_cursor := by simp [hp]
        download_log := by simp [hp]
        download_log_full := fun hm _ => hn hm
        finished := fun _ => hf
        log_lines := hlog }

end

/-- Hardware reset reaches a sound state from every state (R44, R330). -/
theorem sessionInv_hwReset (s : State) : SessionInv (hwReset s) := by
  constructor <;> simp

/-- DL_START (R231): SEQ 1 and LOG empty; the total is unknown and 0, or announced and not 0. -/
theorem sessionInv_dlStart {s : State} {q : Bool} {c : CountSrc} (ht : c = .text → s.total ≠ 0) :
    SessionInv (dlStart q c s) := by
  cases c with
  | field =>
    refine writeOrFail_elim (fun e => ?_) fun e => ?_
    · exact sessionInv_downloading (.inl rfl) rfl rfl (by simp) ⟨le_rfl, by simp, by simp, by simp⟩ rfl
        (by simp)
    · exact sessionInv_fail (by simp) nofun (by simp) (by simp)
  | text =>
    have hpos : 1 ≤ s.total.toNat :=
      Nat.one_le_iff_ne_zero.mpr fun h0 => ht rfl (BitVec.eq_of_toNat_eq h0)
    exact sessionInv_downloading (.inl rfl) rfl rfl (by simp [dlStart])
      ⟨le_rfl, fun _ => hpos, nofun, fun _ => rfl⟩ rfl (by simp [dlStart])

section
variable {s : State} (h : SessionInv s)
include h

theorem SessionInv.failReason_none (hp : s.phase ≠ .failed) : s.failReason = none := by
  by_contra hr
  exact hp (h.failReason_iff.mp hr)

/-! ### Sessions begin -/

/-- UL_START (R201): SEQ 1 of a total that is not 0. -/
theorem sessionInv_ulStart (ht : s.total ≠ 0) : SessionInv (ulStart s) := by
  have hpos : 1 ≤ s.total.toNat := Nat.one_le_iff_ne_zero.mpr fun h0 => ht (BitVec.eq_of_toNat_eq h0)
  refine writeOrFail_elim (fun e => ?_) fun e => ?_
  · exact sessionInv_uploading (.inl rfl) rfl rfl ⟨rfl, rfl⟩ nofun ⟨le_rfl, hpos, rfl⟩ (by simp) h.log_lines
  · exact sessionInv_fail (by simp) nofun (by simp) h.log_lines

/-! ### The upload sequencer -/

theorem sessionInv_ulSend (hp : s.phase = .sending) : SessionInv (ulSend s) := by
  unfold ulSend
  split
  case isTrue hc => exact SessionInv.fail (s := closeReq s) { h with } fun _ => hc
  case isFalse =>
    obtain ⟨len, cells, hf⟩ := fetchLine_only s
    rw [hf]
    refine writeOrFail_elim (fun e => ?_) fun e => ?_
    · exact sessionInv_uploading (.inr rfl) (h.failReason_none (by simp [hp])) (h.upload_mode (.inl hp))
        (h.upload_variant (h.upload_mode (.inl hp))) (fun _ => rfl)
        (h.upload_cursor (h.upload_mode (.inl hp)) (.inl hp)) (h.upload_progress (.inl hp)) h.log_lines
    · exact sessionInv_fail h.progress_le nofun h.upload_variant h.log_lines

theorem sessionInv_ackAccepted (hp : s.phase = .awaitingAck) : SessionInv (ackAccepted s) := by
  have hr := h.failReason_none (by simp [hp])
  have hm := h.upload_mode (.inr hp)
  have hv := h.upload_variant hm
  obtain ⟨h1, hle, htv⟩ := h.upload_cursor hm (.inr (.inl hp))
  rcases ackAccepted_cases s with ⟨hlast, e⟩ | ⟨hmore, e⟩ <;> rw [e]
  · exact sessionInv_finished (.inl rfl) hr (fun _ => hv) (fun _ => hle) (by simp [hm])
      ⟨prog_of_le hlast, htv, h1, hlast⟩ h.log_lines
  · have hs := toNat_add_one_of_lt hmore
    refine sessionInv_uploading (.inl rfl) hr hm hv nofun ⟨?_, ?_, htv⟩ ?_ h.log_lines
    · simp only [hs]; omega
    · simp only [hs]; exact hmore
    · simp only [hs, Nat.add_sub_cancel, prog_toNat_of_lt hmore]

theorem sessionInv_ulPoll (hp : s.phase = .awaitingAck) : SessionInv (ulPoll s) := by
  have hm := h.upload_mode (.inr hp)
  have hdrain : SessionInv (chanDrain s).2 := { h with }
  unfold ulPoll
  split
  case h_1 => exact sessionInv_ackAccepted hdrain hp
  case h_2 =>
    exact sessionInv_uploading (.inl rfl) (h.failReason_none (by simp [hp])) hm (h.upload_variant hm) nofun
      (h.upload_cursor hm (.inr (.inl hp))) (h.upload_progress (.inr hp)) h.log_lines

/-- The end of a session after its marker: TERMINATED, whatever became of RXB and OUT (R204, R234). -/
theorem sessionInv_terminated (hp : s.phase = .done) (rxb : Bytes) (out : List OutEvent) :
    SessionInv { s with phase := .terminated, rxb := rxb, out := out } :=
  sessionInv_finished (.inr rfl) (h.failReason_none (by simp [hp])) h.upload_variant
    (fun hm => have ⟨_, hle, _⟩ := h.upload_cursor hm (.inr (.inr (.inl hp))); hle)
    (fun hm => h.download_log_full hm (.inl hp)) (h.finished (.inl hp)) h.log_lines

theorem sessionInv_ulDone (hp : s.phase = .done) : SessionInv (ulDone s) :=
  writeOrFail_elim (fun _ => sessionInv_terminated h hp _ _) fun _ =>
    sessionInv_fail h.progress_le nofun h.upload_variant h.log_lines

/-! ### The download sequencer -/

theorem sessionInv_dlReq (hp : s.phase = .requesting) : SessionInv (dlReq s) := by
  unfold dlReq
  split
  case isTrue hc => exact SessionInv.fail (s := closeReq s) { h with } fun _ => hc
  case isFalse =>
    refine writeOrFail_elim (fun e => ?_) fun e => ?_
    · exact sessionInv_downloading (.inr rfl) (h.failReason_none (by simp [hp]))
        (h.download_mode (.inl hp)) h.progress_le (h.download_cursor (.inl hp)) (h.download_log (.inl hp))
        h.log_lines
    · exact sessionInv_fail h.progress_le nofun h.upload_variant h.log_lines

theorem sessionInv_replyAccepted (hp : s.phase = .awaitingReply) {n : Word} {p : Bytes}
    (hlen : 1 ≤ p.length ∧ p.length ≤ 255) : SessionInv (replyAccepted n p s) := by
  have hr := h.failReason_none (by simp [hp])
  have hm := h.download_mode (.inr hp)
  have hn := h.download_log (.inr hp)
  obtain ⟨h1, -, -, htext⟩ := h.download_cursor (.inr hp)
  have hlog : ∀ l ∈ s.log ++ [p], 1 ≤ l.length ∧ l.length ≤ 255 := by
    intro l hl
    rcases List.mem_append.mp hl with hl | hl
    · exact h.log_lines l hl
    · rw [List.mem_singleton.mp hl]; exact hlen
  obtain ⟨total, valid, hv, ⟨hlast, e⟩ | ⟨hmore, e⟩⟩ := replyAccepted_cases s n p <;> rw [e] <;>
    have htv : valid = true := hv.elim id fun ⟨ht, hv⟩ => hv.trans (htext ht)
  · exact sessionInv_finished (.inl rfl) hr (by simp [hm]) (by simp [hm]) (fun _ => by simpa using hn)
      ⟨prog_of_le hlast, htv, h1, hlast⟩ hlog
  · have hs := toNat_add_one_of_lt hmore
    refine sessionInv_downloading (.inl rfl) hr hm ?_ ⟨?_, ?_, by simp [htv], fun _ => htv⟩ ?_ hlog
    · exact prog_toNat s.seq total ▸ progNat_le s.seq total
    · simp only [hs]; omega
    · simp only [hs]; exact fun _ => hmore
    · simp only [hs, List.length_append, List.length_singleton, hn]

theorem sessionInv_dlPoll (hp : s.phase = .awaitingReply) : SessionInv (dlPoll s) := by
  have hdrain : SessionInv (chanDrain s).2 := { h with }
  unfold dlPoll
  split
  case h_1 n p hdec => exact sessionInv_replyAccepted hdrain hp (decReply_payload hdec)
  case h_2 =>
    exact sessionInv_downloading (.inl rfl) (h.failReason_none (by simp [hp])) (h.download_mode (.inr hp))
      h.progress_le (h.download_cursor (.inr hp)) (h.download_log (.inr hp)) h.log_lines

theorem sessionInv_dlDone (hp : s.phase = .done) : SessionInv (dlDone s) :=
  writeOrFail_elim (fun _ => sessionInv_terminated h hp _ _) fun _ =>
    sessionInv_fail h.progress_le nofun h.upload_variant h.log_lines

/-! ### Commands, writes and resets -/

/-- CANCEL in a session (R29, R266). -/
theorem sessionInv_cancel (hp : phaseActive s.phase = true) :
    SessionInv { s with cancelPend := true } :=
  { h with
    cancelled_pend := fun _ => rfl
    idle_clean := fun hi => by simp [show s.phase = .idle from hi, phaseActive] at hp }

/-- TOTAL is written in IDLE, where no clause speaks of it (R274). -/
theorem sessionInv_writeTotal (hp : s.phase = .idle) (v : Word) : SessionInv { s with total := v } :=
  { h with
    upload_cursor := by simp [hp]
    upload_progress := by simp [hp]
    download_cursor := by simp [hp]
    finished := by simp [hp] }

theorem sessionInv_clearSession : SessionInv (clearSession s) := by
  constructor <;> simp
  exact h.log_lines

theorem sessionInv_quiet {t : State} (q : Quiet s t) : SessionInv t := by
  cases q
  exact { h with }

theorem sessionInv_move {e : Event} {t : State} (m : Move e s t) : SessionInv t := by
  cases m with
  | quiet q => exact sessionInv_quiet h q
  | ulSend hp => exact sessionInv_ulSend h hp
  | ulPoll _ hp => exact sessionInv_ulPoll h hp
  | ulDone hp _ => exact sessionInv_ulDone h hp
  | dlReq hp => exact sessionInv_dlReq h hp
  | dlPoll _ hp => exact sessionInv_dlPoll h hp
  | dlDone hp _ => exact sessionInv_dlDone h hp
  | startUl _ _ ht => exact sessionInv_ulStart h ht
  | startDl _ _ ht => exact sessionInv_dlStart ht
  | cancel hp => exact sessionInv_cancel h hp
  | abortProto _ => exact h.fail nofun
  | clear _ _ => exact sessionInv_clearSession h
  | writeTotal hp => exact sessionInv_writeTotal h hp _
  | hwReset _ => exact sessionInv_hwReset s

end

/-- Settles O51: taking the event touches nothing the invariant speaks of, and every move keeps it. -/
theorem everyStepKeepsTheSessionInvariant : Obligations.EveryStepKeepsTheSessionInvariant := by
  intro s t h hs
  obtain ⟨e, agenda, standing, -, m⟩ := step_move hs
  have hu : SessionInv { s with agenda := agenda, standing := standing } := { h with }
  exact sessionInv_move hu m

/-- Settles O53: hardware reset of the reset state is that state, and its buffers are empty. -/
theorem resetMeetsBothInvariants : Obligations.ResetMeetsBothInvariants := by
  constructor
  · exact sessionInv_hwReset State.reset
  · constructor
    · rfl
    · nofun
    · nofun

end Sys2Proof.Machine
end

section
/-! PROOFS. What moves SEQ (R22, R24), and that OUT and LOG only grow (R37, R38). -/

namespace Sys2Proof.Machine

open Sys2Proof.Claims

/-! ### SEQ -/

section
variable (s : State)

@[simp] theorem ulSend_seq : (ulSend s).seq = s.seq := by
  obtain ⟨len, cells, hf⟩ := fetchLine_only s
  unfold ulSend
  split
  · rfl
  · rw [hf]
    exact writeOrFail_elim (P := fun t => t.seq = s.seq) (fun _ => rfl) fun _ => rfl

@[simp] theorem ulDone_seq : (ulDone s).seq = s.seq :=
  writeOrFail_elim (P := fun t => t.seq = s.seq) (fun _ => rfl) fun _ => rfl

@[simp] theorem dlReq_seq : (dlReq s).seq = s.seq := by
  unfold dlReq
  split
  · rfl
  · exact writeOrFail_elim (P := fun t => t.seq = s.seq) (fun _ => rfl) fun _ => rfl

@[simp] theorem dlDone_seq : (dlDone s).seq = s.seq :=
  writeOrFail_elim (P := fun t => t.seq = s.seq) (fun _ => rfl) fun _ => rfl

/-- UL_START opens a session of its kind at SEQ 1, also where its trigger could not be written (R201). -/
theorem ulStart_opens : (ulStart s).seq = 1 ∧ (ulStart s).phase ≠ .idle ∧ (ulStart s).mode = .upload :=
  writeOrFail_elim (P := fun t => t.seq = 1 ∧ t.phase ≠ .idle ∧ t.mode = .upload)
    (fun _ => ⟨rfl, nofun, rfl⟩) fun _ => ⟨rfl, nofun, rfl⟩

/-- DL_START likewise (R231). -/
theorem dlStart_opens (q : Bool) (c : CountSrc) :
    (dlStart q c s).seq = 1 ∧ (dlStart q c s).phase ≠ .idle ∧ (dlStart q c s).mode = .download := by
  cases c with
  | field =>
    exact writeOrFail_elim (P := fun t => t.seq = 1 ∧ t.phase ≠ .idle ∧ t.mode = .download)
      (fun _ => ⟨rfl, nofun, rfl⟩) fun _ => ⟨rfl, nofun, rfl⟩
  | text => exact ⟨rfl, nofun, rfl⟩

/-- UL_POLL moves SEQ only by one, and only where it accepts (R203). -/
theorem ulPoll_seq :
    (ulPoll s).seq = s.seq ∨
      ((ulPoll s).seq.toNat = s.seq.toNat + 1 ∧ decAck s.rxb s.seq = .ok) := by
  unfold ulPoll
  split
  case h_1 hok =>
    rcases ackAccepted_cases (chanDrain s).2 with ⟨-, e⟩ | ⟨hmore, e⟩ <;> rw [e]
    · exact .inl rfl
    · exact .inr ⟨toNat_add_one_of_lt hmore, hok⟩
  case h_2 => exact .inl rfl

/-- DL_POLL likewise (R233). -/
theorem dlPoll_seq :
    (dlPoll s).seq = s.seq ∨
      ((dlPoll s).seq.toNat = s.seq.toNat + 1 ∧ ∃ n p, decReply s.rxb s.seq = .ok n p) := by
  unfold dlPoll
  split
  case h_1 n p hok =>
    obtain ⟨total, valid, -, ⟨-, e⟩ | ⟨hmore, e⟩⟩ := replyAccepted_cases (chanDrain s).2 n p <;> rw [e]
    · exact .inl rfl
    · exact .inr ⟨toNat_add_one_of_lt hmore, n, p, hok⟩
  case h_2 => exact .inl rfl

end

/-- Settles O55: of the moves only a poll, a START and the two resets write SEQ. -/
theorem cursorAdvancesOnlyOnAcceptedFrames : Obligations.CursorAdvancesOnlyOnAcceptedFrames := by
  intro s t h
  obtain ⟨e, agenda, standing, hu, m⟩ := step_move h
  cases m with
  | quiet q => cases q; exact .inl rfl
  | ulSend | ulDone | dlReq | dlDone => left; simp
  | cancel | abortProto | writeTotal => exact .inl rfl
  | ulPoll he hp =>
    exact (ulPoll_seq _).imp_right fun ⟨hs, hok⟩ => ⟨e, ⟨_, hu⟩, .inl ⟨hs, .inl ⟨hp, he, hok⟩⟩⟩
  | dlPoll he hp =>
    exact (dlPoll_seq _).imp_right fun ⟨hs, hok⟩ => ⟨e, ⟨_, hu⟩, .inl ⟨hs, .inr ⟨hp, he, hok⟩⟩⟩
  | startUl he hp =>
    obtain ⟨hs, hne, hm⟩ := ulStart_opens { s with agenda := agenda, standing := standing }
    exact .inr ⟨e, ⟨_, hu⟩, .inr (.inl ⟨hs, hp, hne, .inl ⟨he, hm⟩⟩)⟩
  | @startDl q c he hp =>
    obtain ⟨w, hw, he⟩ := he
    obtain ⟨hs, hne, hm⟩ := dlStart_opens { s with agenda := agenda, standing := standing } q c
    exact .inr ⟨e, ⟨_, hu⟩, .inr (.inl ⟨hs, hp, hne, .inr ⟨w, hw, he, hm⟩⟩)⟩
  | clear he => exact .inr ⟨e, ⟨_, hu⟩, .inr (.inr ⟨rfl, rfl, .inr he⟩)⟩
  | hwReset he => exact .inr ⟨e, ⟨_, hu⟩, .inr (.inr ⟨rfl, rfl, .inl he⟩)⟩

/-! ### OUT and LOG -/

/-- `t` holds every event of OUT and every line of LOG that `s` holds, in their order and first. -/
def Extends (s t : State) : Prop := s.out <+: t.out ∧ s.log <+: t.log

section
variable {s t u : State}

theorem extends_of_eq (ho : t.out = s.out) (hl : t.log = s.log) : Extends s t :=
  ⟨ho ▸ List.prefix_refl _, hl ▸ List.prefix_refl _⟩

theorem Extends.trans (h : Extends s t) (h' : Extends t u) : Extends s u :=
  ⟨h.1.trans h'.1, h.2.trans h'.2⟩

theorem extends_emit (e : OutEvent) : Extends s (emit e s) :=
  ⟨List.prefix_append _ _, List.prefix_refl _⟩

/-- A write adds its event to OUT (R65). -/
theorem extends_writeOrFail {bs : Bytes} {k : State → State} (hk : ∀ t, Extends t (k t)) :
    Extends s (writeOrFail bs k s) :=
  writeOrFail_elim (fun e => (extends_emit e).trans (hk _)) fun e =>
    (extends_emit e).trans (extends_of_eq rfl rfl)

theorem extends_quiet (q : Quiet s t) : Extends s t := by
  cases q with
  | mk grows => exact ⟨grows, List.prefix_refl _⟩

end

section
variable (s : State)

theorem extends_ulStart : Extends s (ulStart s) :=
  (extends_of_eq rfl rfl : Extends s (openUpload s)).trans
    (extends_writeOrFail fun _ => extends_of_eq rfl rfl)

theorem extends_ulSend : Extends s (ulSend s) := by
  obtain ⟨len, cells, hf⟩ := fetchLine_only s
  have hfetch : Extends s (fetchLine s) := by rw [hf]; exact extends_of_eq rfl rfl
  unfold ulSend
  split
  · exact (extends_emit .close).trans (extends_of_eq rfl rfl)
  · exact hfetch.trans (extends_writeOrFail fun _ => extends_of_eq rfl rfl)

theorem extends_ulPoll : Extends s (ulPoll s) := by
  unfold ulPoll
  split
  · rcases ackAccepted_cases (chanDrain s).2 with ⟨-, e⟩ | ⟨-, e⟩ <;> rw [e]
    · exact extends_of_eq rfl rfl
    · exact extends_of_eq rfl rfl
  · exact extends_of_eq rfl rfl

theorem extends_ulDone : Extends s (ulDone s) :=
  extends_writeOrFail fun _ => extends_of_eq rfl rfl

theorem extends_dlReq : Extends s (dlReq s) := by
  unfold dlReq
  split
  · exact (extends_emit .close).trans (extends_of_eq rfl rfl)
  · exact extends_writeOrFail fun _ => extends_of_eq rfl rfl

/-- An accepted reply adds its payload to LOG (R70, R233). -/
theorem extends_dlPoll : Extends s (dlPoll s) := by
  unfold dlPoll
  split
  case h_1 n p _ =>
    obtain ⟨total, valid, -, ⟨-, e⟩ | ⟨-, e⟩⟩ := replyAccepted_cases (chanDrain s).2 n p <;> rw [e]
    · exact ⟨List.prefix_refl _, List.prefix_append _ _⟩
    · exact ⟨List.prefix_refl _, List.prefix_append _ _⟩
  case h_2 => exact extends_of_eq rfl rfl

theorem extends_dlDone : Extends s (dlDone s) :=
  extends_writeOrFail fun _ => (extends_emit .close).trans (extends_of_eq rfl rfl)

/-- DL_START empties LOG and keeps OUT (R231). -/
theorem dlStart_histories (q : Bool) (c : CountSrc) :
    s.out <+: (dlStart q c s).out ∧ (dlStart q c s).log = [] := by
  cases c with
  | field =>
    exact writeOrFail_elim (P := fun t => s.out <+: t.out ∧ t.log = [])
      (fun _ => ⟨List.prefix_append _ _, rfl⟩) fun _ => ⟨List.prefix_append _ _, rfl⟩
  | text => exact ⟨List.prefix_refl _, rfl⟩

end

/-- Settles O57: every move but START_DL and hardware reset extends both histories. -/
theorem historiesOnlyGrow : Obligations.HistoriesOnlyGrow := by
  intro s t h hr
  obtain ⟨e, agenda, standing, hu, m⟩ := step_move h
  have grown {p : Prop} {v : State} (hx : Extends { s with agenda := agenda, standing := standing } v) :
      s.out <+: v.out ∧ (s.log <+: v.log ∨ p) := hx.imp_right .inl
  cases m with
  | quiet q => exact grown (extends_quiet q)
  | ulSend => exact grown (extends_ulSend _)
  | ulPoll => exact grown (extends_ulPoll _)
  | ulDone => exact grown (extends_ulDone _)
  | dlReq => exact grown (extends_dlReq _)
  | dlPoll => exact grown (extends_dlPoll _)
  | dlDone => exact grown (extends_dlDone _)
  | startUl => exact grown (extends_ulStart _)
  | @startDl q c he hp =>
    obtain ⟨w, hw, rfl⟩ := he
    obtain ⟨ho, hl⟩ := dlStart_histories { s with agenda := agenda, standing := standing } q c
    exact ⟨ho, .inr ⟨hl, hp, w, hw, _, hu⟩⟩
  | cancel | abortProto | clear | writeTotal => exact grown (extends_of_eq rfl rfl)
  | hwReset he => exact absurd ⟨_, he ▸ hu⟩ hr

end Sys2Proof.Machine
end

section
/-! PROOFS. The STATUS word (R41), the turn of the sequencer (R22, R200, R230), the events of the environment
(R39, R44, R65, R69, R330) and the reset values (R44). -/

namespace Sys2Proof.Machine

open Sys2Proof.Claims

/-! ### STATUS -/

theorem toNat_append_eq_add {m n : Nat} (x : BitVec m) (y : BitVec n) :
    (x ++ y).toNat = x.toNat * 2 ^ n + y.toNat := by
  rw [BitVec.toNat_append, ← Nat.shiftLeft_add_eq_or_of_lt y.isLt, Nat.shiftLeft_eq]

/-- STATUS is the number of its fields, each at the weight of its lowest bit (R41). -/
theorem statusWord_toNat (s : State) :
    (statusWord s).toNat =
      512 * (failReasonCode s.failReason).toNat + 256 * s.cmdErr.toNat + 128 * s.cancelPend.toNat +
        64 * s.totalValid.toNat + 32 * (countSrcBit s.countSrc).toNat + 16 * s.reqCrc.toNat +
        8 * (modeBit s.mode).toNat + (phaseCode s.phase).toNat := by
  simp only [statusWord, toNat_append_eq_add, BitVec.toNat_ofBool, BitVec.ofNat_eq_ofNat,
    BitVec.toNat_ofNat]
  omega

theorem getLsbD_eq_of_toNat {w i : Nat} {v : BitVec w} {b : Bool} (h : v.toNat / 2 ^ i % 2 = b.toNat) :
    v.getLsbD i = b := by
  have hbit : (v.getLsbD i).toNat = b.toNat := (Nat.toNat_testBit v.toNat i).trans h
  rw [Bool.eq_iff_iff, ← Bool.toNat_eq_one, ← Bool.toNat_eq_one, hbit]

theorem phaseCode_toNat (p : Phase) : (phaseCode p).toNat = stateNumber p := by
  cases p <;> rfl

theorem failReasonCode_toNat (r : Option FatalReason) : (failReasonCode r).toNat = reasonNumber r := by
  rcases r with _ | ⟨_ | _ | _⟩ <;> rfl

theorem modeBit_iff (m : Mode) : modeBit m = true ↔ m = .download := by
  cases m <;> decide

theorem countSrcBit_iff (c : CountSrc) : countSrcBit c = true ↔ c = .text := by
  cases c <;> decide

theorem statusFields_statusWord (s : State) : statusFields s ((statusWord s).setWidth 17) := by
  have hv : ((statusWord s).setWidth 17).toNat = (statusWord s).toNat :=
    BitVec.toNat_setWidth_of_le (by decide)
  rw [statusWord_toNat] at hv
  have hp := (phaseCode s.phase).isLt
  have hm := (modeBit s.mode).toNat_le
  have hq := s.reqCrc.toNat_le
  have hc := (countSrcBit s.countSrc).toNat_le
  have ht := s.totalValid.toNat_le
  have hcan := s.cancelPend.toNat_le
  have herr := s.cmdErr.toNat_le
  refine ⟨?_, ?_, ?_, ?_, ?_, ?_, ?_, ?_⟩
  · rw [← phaseCode_toNat]; omega
  · rw [← modeBit_iff, getLsbD_eq_of_toNat (b := modeBit s.mode) (by omega)]
  · exact getLsbD_eq_of_toNat (by omega)
  · rw [← countSrcBit_iff, getLsbD_eq_of_toNat (b := countSrcBit s.countSrc) (by omega)]
  · exact getLsbD_eq_of_toNat (by omega)
  · exact getLsbD_eq_of_toNat (by omega)
  · exact getLsbD_eq_of_toNat (by omega)
  · rw [← failReasonCode_toNat]; omega

/-- Settles O26. -/
theorem statusHoldsItsFields : Obligations.StatusHoldsItsFields :=
  fun s => ⟨_, rfl, statusFields_statusWord s⟩

/-! ### The sequencer's turn -/

/-- The step at an upcoming event is what the event makes of the state with it taken. -/
theorem step_upcoming {s u : State} {e : Event} (h : upcoming s e u) : step s = stepOn e u :=
  step_eq (upcoming_iff_nextEvent.mp h)

/-- Taking the event leaves STATE and MODE, which select the sequencer's step. -/
theorem upcoming_phase_mode {s u : State} {e : Event} (h : upcoming s e u) :
    u.phase = s.phase ∧ u.mode = s.mode := by
  have hu : u = (nextEvent s).2 := by rw [upcoming_iff_nextEvent.mp h]
  exact hu ▸ ⟨nextEvent_phase s, nextEvent_mode s⟩

section
variable {s u : State} {p : Phase} {m : Mode}

/-- The turn in STATE `p` and MODE `m` runs the operation of their bits. -/
theorem step_turn {i : Instr} (h : upcoming s .turn u) (hp : s.phase = p) (hm : s.mode = m)
    (hd : decode (.dispatch (BitVec.ofBool (modeBit m) ++ phaseCode p)) = .ok i)
    (hw : i.wellFormed = true) : step s = exec i u := by
  obtain ⟨hup, hum⟩ := upcoming_phase_mode h
  rw [step_upcoming h]
  exact stepOn_turn (by rw [hup, hum, hp, hm, hd]) hw

/-- Where no bits of STATE `p` select an operation the turn leaves the state. -/
theorem step_turn_settled (h : upcoming s .turn u) (hp : s.phase = p) (hm : s.mode = m)
    (hd : decode (.dispatch (BitVec.ofBool (modeBit m) ++ phaseCode p)) = .err .noStepEnabled) :
    step s = .next u := by
  obtain ⟨hup, hum⟩ := upcoming_phase_mode h
  exact step_settled (upcoming_iff_nextEvent.mp h) rfl (by rw [dispatchBits_eq, hup, hum, hp, hm, hd])

end

/-- Settles O43: in each STATE the bits of STATUS are evaluated for the MODE that stands there. -/
theorem turnTakesTheEnabledStep : Obligations.TurnTakesTheEnabledStep := by
  intro s u h
  refine ⟨fun hp => ?_, fun hp => ?_, fun hp => ?_, fun hp => ?_, fun hp hm => ?_, fun hp hm => ?_,
    fun hp => ?_⟩
  · cases hm : s.mode <;> exact step_turn h hp hm rfl rfl
  · cases hm : s.mode <;> exact step_turn h hp hm rfl rfl
  · cases hm : s.mode <;> exact step_turn h hp hm rfl rfl
  · cases hm : s.mode <;> exact step_turn h hp hm rfl rfl
  · exact step_turn h hp hm rfl rfl
  · exact step_turn h hp hm rfl rfl
  · rcases hp with hp | hp | hp <;> cases hm : s.mode <;> exact step_turn_settled h hp hm rfl

/-! ### The environment's events -/

theorem all_fitsLen_iff (ls : List Bytes) : ls.all fitsLen = true ↔ ∀ l ∈ ls, l.length ≤ 255 := by
  simp [fitsLen]

/-- Lines are presented when all fit, and fault when one does not (R69, log 10). -/
theorem stepOn_present (ls : List Bytes) (u : State) :
    stepOn (.present ls) u =
      if ls.all fitsLen then .next { u with src := ls } else .fault .lineTooLong := by
  simp only [stepOn, selectEvent, presentLines]
  cases ls.all fitsLen <;> rfl

/-- Settles O44: each event is evaluated; only the presented lines ask for a case split. -/
theorem environmentEventsChangeTheirOwn : Obligations.EnvironmentEventsChangeTheirOwn := by
  intro s u
  refine ⟨fun r h => step_upcoming h, fun ls h => ⟨fun hfit => ?_, fun ⟨l, hl, hlong⟩ => ?_⟩,
    fun h => step_upcoming h⟩
  · rw [step_upcoming h, stepOn_present, if_pos ((all_fitsLen_iff ls).mpr hfit)]
  · have hnot : ¬ ls.all fitsLen = true := fun hall =>
      absurd ((all_fitsLen_iff ls).mp hall l hl) (by omega)
    rw [step_upcoming h, stepOn_present, if_neg hnot]

/-! ### Reset -/

/-- Settles O45: the reset state is a literal, and each value is read off it. -/
theorem resetHoldsTheValuesOfTheTable : Obligations.ResetHoldsTheValuesOfTheTable :=
  ⟨rfl, rfl, rfl, rfl, rfl, rfl, rfl, rfl, rfl, rfl, rfl, rfl, rfl, rfl, rfl, rfl, rfl, rfl, rfl⟩

end Sys2Proof.Machine
end

section
/-! PROOFS. The channel's primitives and the line ports as operations: what arrives, what is written, what is
drained, appended and fetched (R65 to R70, R81). -/

namespace Sys2Proof.Machine

/-! ### Arrival (R67) -/

section
variable {s : State}

theorem rxbHasRoom_of_unbounded (h : s.rxbCap = none) : rxbHasRoom s = true := by
  simp [rxbHasRoom, h]

theorem rxbHasRoom_iff_of_cap {c : Nat} (h : s.rxbCap = some c) :
    rxbHasRoom s = true ↔ s.rxb.length < c := by
  simp [rxbHasRoom, h]

theorem exec_rxArrive_of_room (b : Byte) (h : rxbHasRoom s = true) :
    exec (.rxArrive b) s = .next { s with rxb := s.rxb ++ [b] } :=
  congrArg Host.Outcome.next (if_pos h)

theorem exec_rxArrive_of_full (b : Byte) (h : ¬ rxbHasRoom s = true) :
    exec (.rxArrive b) s = .next s :=
  congrArg Host.Outcome.next (if_neg h)

end

/-- Settles O18: there is room without a bound, and below the bound and not at or above it. -/
theorem byteArrivalAppendsOrIsLost : Obligations.ByteArrivalAppendsOrIsLost := by
  intro b s
  refine ⟨fun hn => exec_rxArrive_of_room b (rxbHasRoom_of_unbounded hn),
    fun c hc => ⟨fun hlt => ?_, fun hle => ?_⟩⟩
  · exact exec_rxArrive_of_room b ((rxbHasRoom_iff_of_cap hc).mpr hlt)
  · exact exec_rxArrive_of_full b fun hroom => absurd ((rxbHasRoom_iff_of_cap hc).mp hroom) (by omega)

/-! ### Writes (R65) -/

section
variable {s : State} (bs : Bytes)

theorem chanWrite_of_ok (h : s.chan = .ok) : chanWrite bs s = (true, emit (.tx bs) s) := by
  simp [chanWrite, h, ChanAnswer.isOk, writeEvent]

theorem chanWrite_of_err {k : Nat} (h : s.chan = .err k) :
    chanWrite bs s = (false, emit (.txFail (bs.take k)) s) := by
  simp [chanWrite, h, ChanAnswer.isOk, writeEvent]

theorem exec_chanWrite_eq {ok : Bool} {t : State} (h : chanWrite bs s = (ok, t)) :
    exec (.chanWrite bs) s = .next (setRet (.written ok) t) := by
  show sendBytes bs s = _
  rw [sendBytes, h]

end

/-- Settles O19: by the channel's answer; with `err k` the bytes that left are the first `k`, or all of them
when `k` is past the end (log 5). -/
theorem channelWriteRecordsWhatLeft : Obligations.ChannelWriteRecordsWhatLeft := by
  intro bs s _
  refine ⟨fun hok => exec_chanWrite_eq bs (chanWrite_of_ok bs hok), fun k herr => ?_⟩
  have hleft : bs.take k = bs.take (min k bs.length) := by simp [List.take_eq_take_iff]
  refine ⟨min k bs.length, Nat.min_le_right _ _, ?_, Nat.min_eq_left⟩
  rw [← hleft]
  exact exec_chanWrite_eq bs (chanWrite_of_err bs herr)

/-! ### Drain, sink and close (R66, R70, R81) -/

/-- Settles O20: the three meanings are these updates by definition. -/
theorem drainAppendAndCloseComplete : Obligations.DrainAppendAndCloseComplete :=
  fun _ _ => ⟨rfl, rfl, rfl⟩

/-! ### Line source (R69) -/

/-- Settles O22: the line is the one `srcLine` gives. -/
theorem sourceLineReturnsThePresentedLine : Obligations.SourceLineReturnsThePresentedLine :=
  fun k s => ⟨srcLine k s, rfl, srcLine_length_le k s,
    fun _ hfirst hlast hline hfits => srcLine_of_presented hfirst hlast hline hfits⟩

end Sys2Proof.Machine
end

section
/-! PROOFS. A step stops only on an event that the spec excludes (R69, R90; logs 1, 2, 10, 13). -/

namespace Sys2Proof.Machine

open Sys2Proof.Claims

/-- An access the spec gives no operation: its bits decode to nothing, or to operands outside the domain of
their row (logs 2, 13). -/
def UnsoundAccess (a : Access) : Prop :=
  (∃ e, decode a = .err e) ∨ ∃ i, decode a = .ok i ∧ i.wellFormed = false

/-- An access runs a well-formed operation, is a turn while no step is enabled, or is refused as unsound. -/
theorem selectAccess_cases (a : Access) (s : State) :
    (∃ i, selectAccess a s = .run i s) ∨ selectAccess a s = .settled s ∨
      (UnsoundAccess a ∧ ∃ r, selectAccess a s = .refused r) := by
  unfold selectAccess UnsoundAccess
  cases decode a with
  | ok i =>
    cases hw : i.wellFormed with
    | true => exact .inl ⟨i, by simp [hw]⟩
    | false => exact .inr (.inr ⟨.inr ⟨i, rfl, hw⟩, .illFormed i, by simp [hw]⟩)
  | err e =>
    cases e with
    | noStepEnabled => exact .inr (.inl rfl)
    | _ => exact .inr (.inr ⟨.inl ⟨_, rfl⟩, _, rfl⟩)

/-- STATUS bits 3:0 select a step of the sequencer, or none is enabled (R200, R230). -/
theorem decodeDispatch_cases (st : BitVec 4) :
    (∃ i, decodeDispatch st = .ok i ∧ i.wellFormed = true) ∨
      decodeDispatch st = .err .noStepEnabled := by
  unfold decodeDispatch
  split_ifs
  case neg => exact .inr rfl
  all_goals exact .inl ⟨_, rfl, rfl⟩

/-- The sequencer's turn is never refused. -/
theorem selectTurn_cases (s : State) :
    (∃ i, selectTurn s = .run i s) ∨ selectTurn s = .settled s := by
  unfold selectTurn selectAccess
  rcases decodeDispatch_cases (dispatchBits s) with ⟨i, hd, hw⟩ | hd
  · exact .inl ⟨i, by simp [decode, hd, hw]⟩
  · exact .inr (by simp [decode, hd])

/-- What an event answers: a next state; or a fault, for lines of which one is over 255 bytes; or a refusal,
for an unsound access. -/
theorem stepOn_outcome (e : Event) (s : State) :
    (∃ t, stepOn e s = .next t) ∨
      (∃ f ls, stepOn e s = .fault f ∧ e = .present ls ∧ ∃ l ∈ ls, 255 < l.length) ∨
      (∃ r a, stepOn e s = .refused r ∧ e = .access a ∧ UnsoundAccess a) := by
  have runs (i : Instr) (h : selectEvent e s = .run i s) : ∃ t, stepOn e s = .next t := by
    simpa only [stepOn, h] using everyOperationAnswersANextState i s
  have settles (t : State) (h : selectEvent e s = .settled t) : ∃ t, stepOn e s = .next t :=
    ⟨t, by simp only [stepOn, h]⟩
  cases e with
  | turn =>
    rcases selectTurn_cases s with ⟨i, h⟩ | h
    · exact .inl (runs i h)
    · exact .inl (settles s h)
  | access a =>
    rcases selectAccess_cases a s with ⟨i, h⟩ | h | ⟨ha, r, h⟩
    · exact .inl (runs i h)
    · exact .inl (settles s h)
    · exact .inr (.inr ⟨r, a, by simp only [stepOn, selectEvent, h], rfl, ha⟩)
  | channel r => exact .inl (settles _ rfl)
  | present ls =>
    rw [stepOn_present]
    by_cases hfit : ls.all fitsLen = true
    · exact .inl ⟨_, if_pos hfit⟩
    · have hlong : ∃ l ∈ ls, 255 < l.length := by
        simpa only [all_fitsLen_iff, not_forall, not_le, exists_prop] using hfit
      exact .inr (.inl ⟨_, ls, if_neg hfit, rfl, hlong⟩)
  | hwReset => exact .inl (settles _ rfl)

/-- Settles O47: the step is its next event, whose three outcomes exclude each other. -/
theorem stepStopsOnlyOnAnUnsoundEvent : Obligations.StepStopsOnlyOnAnUnsoundEvent := by
  intro s
  obtain ⟨e, u, hu⟩ : ∃ e u, upcoming s e u := ⟨_, _, upcoming_iff_nextEvent.mpr rfl⟩
  rw [step_upcoming hu]
  rcases stepOn_outcome e u with ⟨t, h⟩ | ⟨f, ls, h, rfl, hlong⟩ | ⟨r, a, h, rfl, ha⟩ <;> rw [h]
  · exact ⟨nofun, nofun⟩
  · exact ⟨fun _ _ => ⟨ls, ⟨u, hu⟩, hlong⟩, nofun⟩
  · exact ⟨nofun, fun _ _ => ⟨a, ⟨u, hu⟩, ha⟩⟩

end Sys2Proof.Machine
end

section
/-! PROOFS. Every step keeps TXP, the lines of SRC and RXB inside their bounds (R60, R67, R69). -/

namespace Sys2Proof.Machine

/-- What holds of both branches holds of the choice, whatever the guard. -/
theorem bufferInv_ite {c : Prop} [Decidable c] {t u : State} (ht : BufferInv t) (hu : BufferInv u) :
    BufferInv (if c then t else u) := by
  split
  · exact ht
  · exact hu

section
variable {s : State} (h : BufferInv s)
include h

/-! ### The buffers' own operations -/

/-- A drained RXB is within every bound (R66). -/
theorem bufferInv_drained : BufferInv (chanDrain s).2 :=
  { h with rxb_fits := fun c _ => Nat.zero_le c }

/-- Bytes past RXB_CAP are lost (R67). -/
theorem bufferInv_rxArriveAll (bs : Bytes) : BufferInv (rxArriveAll bs s) := by
  have hfits {c : Nat} (hc : s.rxbCap = some c) : (rxArriveAll bs s).rxb.length ≤ c :=
    rxArriveAll_rxb_length_le hc (h.rxb_fits c hc)
  obtain ⟨r, hr⟩ := rxArriveAll_only_rxb bs s
  rw [hr] at hfits ⊢
  exact { h with rxb_fits := fun _ => hfits }

/-- A fetched line has at most 255 bytes, so it is written inside TXP (R60, R69, R202). -/
theorem bufferInv_fetchLine : BufferInv (fetchLine s) := by
  rcases fetchLine_cases s with ⟨-, e⟩ | ⟨-, e⟩ <;> rw [e]
  · exact h
  · have hline : 0 + (srcLine s.seq s).length ≤ Memory.size := by
      simpa [Memory.size] using srcLine_length_le s.seq s
    exact { h with txp_wf := Memory.writeAll_wf h.txp_wf hline }

/-! ### Sessions begin, and the sequencers -/

theorem bufferInv_ulStart : BufferInv (ulStart s) :=
  writeOrFail_elim (fun _ => { h with }) fun _ => { h with }

theorem bufferInv_dlStart (q : Bool) (c : CountSrc) : BufferInv (dlStart q c s) := by
  cases c with
  | field => exact writeOrFail_elim (fun _ => { h with }) fun _ => { h with }
  | text => exact { h with }

theorem bufferInv_ulSend : BufferInv (ulSend s) := by
  have hf := bufferInv_fetchLine h
  exact bufferInv_ite { h with } (writeOrFail_elim (fun _ => { hf with }) fun _ => { hf with })

theorem bufferInv_ulPoll : BufferInv (ulPoll s) := by
  have hd := bufferInv_drained h
  unfold ulPoll
  split
  case h_1 =>
    rcases ackAccepted_cases (chanDrain s).2 with ⟨-, e⟩ | ⟨-, e⟩ <;> rw [e] <;> exact { hd with }
  case h_2 => exact { hd with }

theorem bufferInv_ulDone : BufferInv (ulDone s) := by
  have hd := bufferInv_drained h
  exact writeOrFail_elim (fun _ => { hd with }) fun _ => { h with }

theorem bufferInv_dlReq : BufferInv (dlReq s) :=
  bufferInv_ite { h with } (writeOrFail_elim (fun _ => { h with }) fun _ => { h with })

theorem bufferInv_dlPoll : BufferInv (dlPoll s) := by
  have hd := bufferInv_drained h
  unfold dlPoll
  split
  case h_1 n p _ =>
    obtain ⟨_, _, -, ⟨-, e⟩ | ⟨-, e⟩⟩ := replyAccepted_cases (chanDrain s).2 n p <;> rw [e] <;>
      exact { hd with }
  case h_2 => exact { hd with }

theorem bufferInv_dlDone : BufferInv (dlDone s) :=
  writeOrFail_elim (fun _ => { h with }) fun _ => { h with }

/-! ### The host's commands and register writes (R262 to R275) -/

theorem bufferInv_runCommand (c : Command) : BufferInv (runCommand c s) := by
  have hr : BufferInv (refuse s) := { h with }
  cases c with
  | nop => exact h
  | startUl => exact bufferInv_ite hr (bufferInv_ite hr (bufferInv_ulStart h))
  | startDl q c => exact bufferInv_ite hr (bufferInv_ite hr (bufferInv_dlStart h q c))
  | cancel => exact bufferInv_ite { h with } h
  | abortProto => exact bufferInv_ite hr { h with }
  | clear => exact bufferInv_ite hr { h with }
  | crcClr => exact bufferInv_ite hr { h with }
  | reserved _ => exact hr

theorem bufferInv_writeReg (n v : Nat) : BufferInv (writeReg n v s) := by
  have hr : BufferInv (refuse s) := { h with }
  unfold writeReg
  split
  · exact bufferInv_ite hr (bufferInv_runCommand h _)
  · exact bufferInv_ite hr (bufferInv_ite { h with } hr)
  · exact bufferInv_ite hr (bufferInv_ite { h with } hr)
  · exact bufferInv_ite hr (bufferInv_ite hr { h with })
  · exact hr

/-! ### Every operation -/

/-- Every operation keeps the bounds: those that touch TXP or RXB by the lemmas above, the others because
they touch no buffer. -/
theorem bufferInv_exec (i : Instr) {t : State} (hx : exec i s = .next t) : BufferInv t := by
  have command (c : Command) (hc : exec i s = .next (runCommand c s)) : BufferInv t := by
    cases hc.symm.trans hx
    exact bufferInv_runCommand h c
  have guarded {c : Prop} [Decidable c] {x : State} (hg : exec i s = .next (if c then x else s))
      (hk : BufferInv x) : BufferInv t := by
    cases hg.symm.trans hx
    exact bufferInv_ite hk h
  cases i with
  | fAck | fReply => cases hx; exact bufferInv_rxArriveAll h _
  | rxArrive b => cases hx; exact bufferInv_rxArriveAll h [b]
  | chanDrain => cases hx; exact { bufferInv_drained h with }
  | startUl => exact command .startUl rfl
  | startDl q c => exact command (.startDl q c) rfl
  | cancel => exact command .cancel rfl
  | abortProto => exact command .abortProto rfl
  | clear => exact command .clear rfl
  | crcClr => exact command .crcClr rfl
  | wrreg n v => cases hx; exact bufferInv_writeReg h n v
  | wrregTotal v => cases hx; exact bufferInv_writeReg h 3 v.toNat
  | wrregTrig v => cases hx; exact bufferInv_writeReg h 6 v.toNat
  | crcPush b => cases hx; exact bufferInv_writeReg h 8 b.toNat
  | ulSend => exact guarded (execUlSend_eq s) (bufferInv_ulSend h)
  | ulPoll => exact guarded (execUlPoll_eq s) (bufferInv_ulPoll h)
  | ulDone => exact guarded (execUlDone_eq s) (bufferInv_ulDone h)
  | dlReq => exact guarded (execDlReq_eq s) (bufferInv_dlReq h)
  | dlPoll => exact guarded (execDlPoll_eq s) (bufferInv_dlPoll h)
  | dlDone => exact guarded (execDlDone_eq s) (bufferInv_dlDone h)
  | ulStart => cases hx; exact bufferInv_ulStart h
  | dlStart q c => cases hx; exact bufferInv_dlStart h q c
  | _ => cases hx; exact { h with }

theorem bufferInv_stepOn {e : Event} {t : State} (hx : stepOn e s = .next t) : BufferInv t := by
  rcases stepOn_cases hx with ⟨-, i, -, -, -, hi⟩ | ⟨-, -, -, rfl⟩ | ⟨-, -, rfl⟩ | ⟨ls, -, hfit, rfl⟩ |
    ⟨-, rfl⟩
  · exact bufferInv_exec h i hi
  · exact h
  · exact { h with }
  · exact { h with lines_fit := (all_fitsLen_iff ls).mp hfit }
  · exact { h with }

end

/-- Settles O52: taking the next event touches no buffer, and every event keeps the bounds. -/
theorem everyStepKeepsTheBufferBounds : Obligations.EveryStepKeepsTheBufferBounds := by
  intro s t h hstep
  have hu : BufferInv (nextEvent s).2 := by
    rw [nextEvent_snd]
    exact { h with }
  exact bufferInv_stepOn hu ((step_eq rfl).symm.trans hstep)

end Sys2Proof.Machine
end

section
/-! PROOFS. Encodings (R90 to R110): decoding inverts encoding, the words of the opcode table, the command words
in numbers. -/

namespace Sys2Proof.Machine

open Sys2Proof.Laws Sys2Proof.Claims

/-! ### The round trip, over every row -/

/-- The rows with a wire format, a command word or a register access by their round trips; five rows have no
access (log 14); what is left has an access that carries the operation itself, or its fixed bits. -/
theorem roundTrip (i : Instr) : RoundTrip.Statement i := by
  cases i with
  | fReq4 seq => exact RoundTrip.fReq4 seq
  | fReq6 seq => exact RoundTrip.fReq6 seq
  | fAck seq => exact RoundTrip.fAck seq
  | fReply seq total p => exact RoundTrip.fReply seq total p
  | fUdata seq p => exact RoundTrip.fUdata seq p
  | fTrigDl a b => exact RoundTrip.fTrigDl a b
  | startDl q c => exact RoundTrip.startDl q c
  | cmdReserved w => exact RoundTrip.cmdReserved w
  | rdreg n => exact RoundTrip.rdreg n
  | wrreg n v => exact RoundTrip.wrreg n v
  | wrregTotal v => exact RoundTrip.wrregTotal v
  | wrregTrig v => exact RoundTrip.wrregTrig v
  | crcPush b => exact RoundTrip.crcPush b
  | ulStart | dlStart | logAppend | closeReq | fail => rintro - _ ⟨⟩
  | _ => rintro - _ ⟨⟩; rfl

/-- Settles O49: the round trip of each row. -/
theorem decodeInvertsEncode : Obligations.DecodeInvertsEncode :=
  fun i a hw he => roundTrip i hw a he

/-! ### Words of the opcode table (log 2) -/

/-- A table word decodes to the row whose encoding is the access the word stands for. -/
theorem decodeTableWord_of_encode {nbits w : Nat} {i : Instr} (hw : i.wellFormed = true)
    (he : encode i = some (tableAccess nbits w)) : decodeTableWord nbits w = some i := by
  rw [decodeTableWord, roundTrip i hw _ he, Decoded.toOption]

/-- Settles O48: each word stands for the access its row encodes to; only F_TERM's word is taken through the
port of the other session kind, and is decoded there. -/
theorem tableWordsDecodeToTheirRows : Obligations.TableWordsDecodeToTheirRows :=
  ⟨decodeTableWord_of_encode rfl (by decide), decodeTableWord_of_encode rfl (by decide),
    decodeTableWord_of_encode rfl (by decide), by decide, decodeTableWord_of_encode rfl (by decide),
    decodeTableWord_of_encode rfl (by decide), decodeTableWord_of_encode rfl (by decide),
    decodeTableWord_of_encode rfl (by decide)⟩

/-! ### Command words and register accesses (R106 to R110, R271) -/

/-- The words R271 names in numbers are those the model's test of the fields names. -/
theorem isReservedWord_iff_reservedWord (w : Word) : isReservedWord w = true ↔ reservedWord w := by
  have hw := word_fields w
  have h4 := (w.getLsbD 4).toNat_le
  have h5 := (w.getLsbD 5).toNat_le
  have hop := (w.extractLsb' 0 4).isLt
  have high : w.extractLsb' 6 10 ≠ 0 ↔ (w.extractLsb' 6 10).toNat ≠ 0 := BitVec.toNat_ne
  have bits : (w.getLsbD 4 || w.getLsbD 5) = true ↔
      (w.getLsbD 4).toNat = 1 ∨ (w.getLsbD 5).toNat = 1 := by simp
  rw [isReservedWord_iff, reservedWord, high, bits]
  omega

/-- A 16-bit word written to CMD selects the row of its command. -/
theorem decode_cmdWrite (w : Word) :
    decode (.hostWrite 0 w.toNat) = .ok (instrOfCommand (commandOf w)) := by
  have h := commandWord_commandOf w
  have hd := decode_command (congrArg commandOf h)
  rwa [h] at hd

/-- Settles O50: a word is that of the command it stands for, so decoding inverts it; register reads and writes
mean RDREG and WRREG whichever row they decode to. -/
theorem everyCommandWordHasOneMeaning : Obligations.EveryCommandWordHasOneMeaning := by
  refine ⟨⟨decode_cmdWrite 0x0000, decode_cmdWrite 0x0001, decode_cmdWrite 0x0002, decode_cmdWrite 0x0012,
      decode_cmdWrite 0x0022, decode_cmdWrite 0x0032, decode_cmdWrite 0x0003, decode_cmdWrite 0x0004,
      decode_cmdWrite 0x0005, decode_cmdWrite 0x0006⟩,
    fun w => ⟨commandWord_commandOf w, decode_cmdWrite w, instrOfCommand_wellFormed w, fun hr => ?_⟩,
    fun n => ⟨decodeRead n, rfl, decodeRead_wellFormed n, exec_decodeRead n⟩,
    fun n v => ⟨decodeWrite n v, rfl, decodeWrite_wellFormed n v, fun s => exec_decodeWrite s n v⟩⟩
  rw [decode_cmdWrite, RoundTrip.commandOf_reserved ((isReservedWord_iff_reservedWord w).mpr hr),
    instrOfCommand]

/-! ### Reserved register numbers and values wider than the register (R40, R110) -/

section
variable (s : State) {n : Nat}

theorem exec_rdreg : exec (.rdreg n) s = .next (setRet (.reg (readReg n s)) s) := rfl

theorem exec_wrreg (v : Nat) : exec (.wrreg n v) s = .next (writeReg n v s) := rfl

theorem readReg_of_reserved (h : 9 ≤ n) : readReg n s = 0 := by
  unfold readReg
  split
  case h_8 => rfl
  all_goals omega

theorem writeReg_of_reserved (h : 9 ≤ n) (v : Nat) : writeReg n v s = refuse s := by
  unfold writeReg
  split
  case h_5 => rfl
  all_goals omega

end

/-- Settles O28: above CRC_DATA no register stands, and the width is the first test of each write. -/
theorem reservedNumbersAndWideValues : Obligations.ReservedNumbersAndWideValues := by
  intro s n v
  refine ⟨fun hn => ⟨?_, ?_⟩, ?_⟩
  · rw [exec_rdreg, readReg_of_reserved s hn]
    rfl
  · rw [exec_wrreg, writeReg_of_reserved s hn]
    rfl
  · rintro (⟨rfl, hv⟩ | ⟨rfl, hv⟩ | ⟨rfl, hv⟩ | ⟨rfl, hv⟩) <;>
      exact congrArg Host.Outcome.next (if_pos (by omega))

end Sys2Proof.Machine
end

section
/-! PROOFS. The wire formats as operations: a host's frame is written on the channel, a device's frame arrives in
RXB as far as it has room (R65, R67, R96 to R102; log 3). -/

namespace Sys2Proof.Machine

open Sys2Proof.Claims

/-! ### The serializer's frames in the words of the statements -/

theorem hi_eq (w : Word) : hi w = hiByte w := by
  have := w.isLt
  apply BitVec.eq_of_toNat_eq
  rw [hiByte_toNat, hi, BitVec.toNat_ofNat]
  omega

theorem lo_eq (w : Word) : lo w = loByte w := by
  apply BitVec.eq_of_toNat_eq
  rw [loByte_toNat, lo, BitVec.toNat_ofNat]
  omega

theorem head_eq (seq : Word) : head seq = frameHead seq := by
  rw [head, frameHead, hi_eq, lo_eq]

theorem encTail_eq (h : Bytes) : encTail h = withCrc h := rfl

theorem encAck_eq (seq : Word) : encAck seq = ackFrame seq := by
  rw [encAck, encTail_eq, ackFrame, head_eq]

theorem encUdata_eq (seq : Word) (p : Bytes) : encUdata seq p = dataFrame seq p := by
  rw [encUdata, encTail_eq, dataFrame, head_eq, lenByte]

theorem encReply_eq (seq total : Word) (p : Bytes) : encReply seq total p = replyFrame seq total p := by
  rw [encReply, encTail_eq, replyFrame, head_eq, hi_eq, lo_eq, lenByte]

/-! ### Host to device -/

section
variable {s : State} (f : Bytes)

theorem sendBytes_of_ok (h : s.chan = .ok) :
    sendBytes f s = .next { s with out := s.out ++ [.tx f], ret := .written true } :=
  exec_chanWrite_eq f (chanWrite_of_ok f h)

theorem sendBytes_of_err {k : Nat} (h : s.chan = .err k) :
    sendBytes f s = .next { s with out := s.out ++ [.txFail (f.take k)], ret := .written false } :=
  exec_chanWrite_eq f (chanWrite_of_err f h)

end

/-- Settles O23: each of the rows is a write of its own bytes. -/
theorem hostToDeviceFormatsAreWritten : Obligations.HostToDeviceFormatsAreWritten := by
  intro i f s hi
  have hsend : exec i s = sendBytes f s := by
    rcases hi with ⟨seq, rfl, rfl⟩ | ⟨seq, rfl, rfl⟩ | ⟨seq, p, rfl, -, rfl⟩ | ⟨rfl, rfl⟩ | ⟨a, rfl, rfl⟩ |
      ⟨a, rfl, rfl⟩ | ⟨a, b, rfl, rfl⟩
    · rw [head_eq]; rfl
    · rw [head_eq]; rfl
    · rw [← encUdata_eq]; rfl
    all_goals rfl
  rw [hsend]
  exact ⟨sendBytes_of_ok f, fun _ => sendBytes_of_err f⟩

/-! ### Device to host -/

section
variable {s : State} (bs : Bytes)

/-- In a channel without a bound every byte is appended (R67). -/
theorem rxArriveAll_of_unbounded (h : s.rxbCap = none) :
    rxArriveAll bs s = { s with rxb := s.rxb ++ bs } := by
  induction bs generalizing s with
  | nil => simp [rxArriveAll]
  | cons b rest ih =>
    calc
      rxArriveAll (b :: rest) s = rxArriveAll rest { s with rxb := s.rxb ++ [b] } :=
        congrArg (rxArriveAll rest) (if_pos (rxbHasRoom_of_unbounded h))
      _ = { s with rxb := s.rxb ++ [b] ++ rest } := ih h
      _ = { s with rxb := s.rxb ++ b :: rest } := by rw [List.append_assoc, List.singleton_append]

/-- In a channel of capacity `c` bytes are appended while there is room, and the others are lost (R67). -/
theorem rxArriveAll_of_cap {c : Nat} (hc : s.rxbCap = some c) (hle : s.rxb.length ≤ c) :
    rxArriveAll bs s = { s with rxb := (s.rxb ++ bs).take c } := by
  induction bs generalizing s with
  | nil => simp [rxArriveAll, List.take_of_length_le hle]
  | cons b rest ih =>
    by_cases hlt : s.rxb.length < c
    · calc
        rxArriveAll (b :: rest) s = rxArriveAll rest { s with rxb := s.rxb ++ [b] } :=
          congrArg (rxArriveAll rest) (if_pos ((rxbHasRoom_iff_of_cap hc).mpr hlt))
        _ = { s with rxb := (s.rxb ++ [b] ++ rest).take c } := ih hc (by simpa using hlt)
        _ = { s with rxb := (s.rxb ++ b :: rest).take c } := by
          rw [List.append_assoc, List.singleton_append]
    · have hfull : s.rxb.length = c := by omega
      calc
        rxArriveAll (b :: rest) s = rxArriveAll rest s :=
          congrArg (rxArriveAll rest) (if_neg fun hroom => hlt ((rxbHasRoom_iff_of_cap hc).mp hroom))
        _ = { s with rxb := (s.rxb ++ rest).take c } := ih hc hle
        _ = { s with rxb := (s.rxb ++ b :: rest).take c } := by
          rw [List.take_left' hfull, List.take_left' hfull]

end

/-- Settles O24: each of the two rows is the arrival of its frame, byte by byte. -/
theorem deviceToHostFormatsArrive : Obligations.DeviceToHostFormatsArrive := by
  intro i f s hi
  have harrive : exec i s = .next (rxArriveAll f s) := by
    rcases hi with ⟨seq, rfl, rfl⟩ | ⟨seq, total, p, rfl, -, rfl⟩
    · rw [← encAck_eq]; rfl
    · rw [← encReply_eq]; rfl
  rw [harrive]
  exact ⟨fun hn => congrArg _ (rxArriveAll_of_unbounded f hn),
    fun c hc hle => congrArg _ (rxArriveAll_of_cap f hc hle)⟩

end Sys2Proof.Machine
end

section
/-! PROOFS. The checksum engine (R130 to R135): the table and the update against the generation law of R131,
CRC16 against the bit-serial checksum, and the two bytes of the trailer. -/

namespace Sys2Proof.Machine

open Sys2Proof.Claims

/-! ### The generation law (R131) -/

/-- One turn is linear: whether the polynomial is added depends on bit 0 alone, and bit 0 is linear. -/
theorem crcBit_xor (x y : Word) : crcBit (x ^^^ y) = crcBit x ^^^ crcBit y := by
  simp only [crcBit, BitVec.getLsbD_xor, BitVec.ushiftRight_xor_distrib]
  cases hx : x.getLsbD 0 <;> cases hy : y.getLsbD 0
  · rfl
  · exact BitVec.xor_assoc _ _ _
  · simp only [Bool.xor_false, if_true, Bool.false_eq_true, if_false]
    ac_rfl
  · have hcancel : (0xA001 : Word) ^^^ 0xA001 = 0 := rfl
    calc
      x >>> 1 ^^^ y >>> 1 = (x >>> 1 ^^^ y >>> 1) ^^^ (0xA001 ^^^ 0xA001) := by
        rw [hcancel]; exact BitVec.xor_zero.symm
      _ = (x >>> 1 ^^^ 0xA001) ^^^ (y >>> 1 ^^^ 0xA001) := by ac_rfl

theorem crcBits_xor (n : Nat) (x y : Word) : crcBits n (x ^^^ y) = crcBits n x ^^^ crcBits n y := by
  induction n generalizing x y with
  | zero => rfl
  | succ n ih => simp only [crcBits, crcBit_xor, ih]

/-- While only zero bits leave, the polynomial is never added. -/
theorem crcBits_of_low_zero {n : Nat} {x : Word} (h : ∀ k < n, x.getLsbD k = false) :
    crcBits n x = x >>> n := by
  induction n generalizing x with
  | zero => exact (BitVec.ushiftRight_zero x).symm
  | succ n ih =>
    have hturn : crcBit x = x >>> 1 := if_neg (by rw [h 0 (by omega)]; exact Bool.false_ne_true)
    have hrest : ∀ k < n, (x >>> 1).getLsbD k = false := fun k hk => by
      rw [BitVec.getLsbD_ushiftRight]
      exact h (1 + k) (by omega)
    calc
      crcBits (n + 1) x = crcBits n (x >>> 1) := by rw [crcBits, hturn]
      _ = x >>> 1 >>> n := ih hrest
      _ = x >>> (n + 1) := by rw [← BitVec.shiftRight_add, Nat.add_comm]

/-! ### The table (R130) -/

/-- The table is a closed text of 256 entries, each compared with its eight turns. -/
theorem lut_eq_crcBits : ∀ i : Byte, lut i = crcBits 8 (i.setWidth 16) := by
  decide

/-- Settles O1. -/
theorem lutEntriesFollowTheGenerationLaw : Obligations.LutEntriesFollowTheGenerationLaw :=
  lut_eq_crcBits

/-- Settles O2: the entries are values of the generation law, and the law is linear. -/
theorem lutIsLinearOverXor : Obligations.LutIsLinearOverXor := by
  intro i j
  calc
    lut (i ^^^ j) = crcBits 8 (i.setWidth 16 ^^^ j.setWidth 16) := by
      rw [lut_eq_crcBits, BitVec.setWidth_xor]
    _ = crcBits 8 (i.setWidth 16) ^^^ crcBits 8 (j.setWidth 16) := crcBits_xor ..
    _ = lut i ^^^ lut j := by rw [lut_eq_crcBits, lut_eq_crcBits]

/-! ### The update (R132) -/

theorem setWidth_and_0xFF (x : Word) : (x &&& 0xFF).setWidth 8 = x.setWidth 8 := by
  rw [BitVec.setWidth_and]
  exact BitVec.and_allOnes

/-- A word is its low byte and what stands above it. -/
theorem word_eq_lowByte_xor_rest (x : Word) : x = (x.setWidth 8).setWidth 16 ^^^ (x >>> 8 <<< 8) := by
  apply BitVec.eq_of_getLsbD_eq
  intro k hk
  by_cases hlow : k < 8
  · simp [hlow, hk]
  · simp [hlow, hk, show 8 + (k - 8) = k by omega]

/-- Eight turns look the low byte up in the table and shift the rest down. -/
theorem crcBits_eight (x : Word) : crcBits 8 x = lut (x.setWidth 8) ^^^ (x >>> 8) := by
  have hrest : crcBits 8 (x >>> 8 <<< 8) = x >>> 8 := by
    rw [crcBits_of_low_zero (by simp +contextual)]
    bv_omega
  calc
    crcBits 8 x = crcBits 8 ((x.setWidth 8).setWidth 16 ^^^ (x >>> 8 <<< 8)) :=
      congrArg (crcBits 8) (word_eq_lowByte_xor_rest x)
    _ = lut (x.setWidth 8) ^^^ (x >>> 8) := by rw [crcBits_xor, hrest, lut_eq_crcBits]

/-- The update is one byte exclusive-ored in and shifted out by eight turns. -/
theorem crcUpd_eq_crcBits (crc : Word) (b : Byte) : crcUpd crc b = crcBits 8 (crc ^^^ b.setWidth 16) := by
  have hbyte : b.setWidth 16 >>> 8 = (0 : Word) := by bv_omega
  have hshift : (crc ^^^ b.setWidth 16) >>> 8 = crc >>> 8 := by
    rw [BitVec.ushiftRight_xor_distrib, hbyte]
    exact BitVec.xor_zero
  rw [crcUpd, setWidth_and_0xFF, BitVec.xor_comm (b.setWidth 16), crcBits_eight, hshift]

/-- The operation returns the value of the update and writes nothing else (R132, R137). -/
theorem exec_crcUpd (crc : Word) (b : Byte) (s : State) :
    exec (.crcUpd crc b) s = .next { s with ret := .word (crcUpd crc b) } := rfl

/-- Settles O3: the value returned is the update's own formula. -/
theorem crcUpdateReturnsTheTableStep : Obligations.CrcUpdateReturnsTheTableStep := by
  intro crc b s
  rw [exec_crcUpd, crcUpd]

/-! ### The checksum of a sequence (R133) -/

theorem exec_crc16 (bs : Bytes) (s : State) :
    exec (.crc16 bs) s = .next { s with ret := .word (crc16 bs) } := rfl

theorem crc16_nil : crc16 [] = 0 := rfl

theorem crc16_concat (bs : Bytes) (b : Byte) : crc16 (bs ++ [b]) = crcUpd (crc16 bs) b :=
  List.foldl_concat ..

/-- Settles O4: the fold starts at the seed, and the last byte is its last step. -/
theorem crc16FoldsTheUpdateFromZero : Obligations.Crc16FoldsTheUpdateFromZero := by
  intro s
  refine ⟨by rw [exec_crc16, crc16_nil], fun bs b => ⟨crc16 bs, exec_crc16 bs s, ?_⟩⟩
  rw [exec_crc16, crc16_concat]

theorem bitCrc_concat (bs : Bytes) (b : Byte) :
    bitCrc (bs ++ [b]) = crcBits 8 (bitCrc bs ^^^ b.setWidth 16) :=
  List.foldl_concat ..

theorem crc16_eq_bitCrc (bs : Bytes) : crc16 bs = bitCrc bs := by
  induction bs using List.reverseRecOn with
  | nil => rfl
  | append_singleton bs b ih => rw [crc16_concat, ih, crcUpd_eq_crcBits, bitCrc_concat]

/-- Settles O5: byte by byte the two checksums take the same step. -/
theorem crc16IsTheBitSerialChecksum : Obligations.Crc16IsTheBitSerialChecksum := by
  intro bs s
  rw [exec_crc16, crc16_eq_bitCrc]

/-! ### The bytes of the trailer (R134, R135) -/

theorem exec_crcHi (bs : Bytes) (s : State) :
    exec (.crcHi bs) s = .next { s with ret := .byte (crcHi bs) } := rfl

theorem exec_crcLo (bs : Bytes) (s : State) :
    exec (.crcLo bs) s = .next { s with ret := .byte (crcLo bs) } := rfl

/-- Settles O6: the two bytes are those of the frame codec's trailer. -/
theorem crcBytesAreQuotientAndRemainder : Obligations.CrcBytesAreQuotientAndRemainder := by
  intro bs s
  exact ⟨crcHi bs, crcLo bs, exec_crcHi bs s, exec_crcLo bs s, crcHi_toNat bs, crcLo_toNat bs⟩

end Sys2Proof.Machine
end

section
/-! PROOFS. The serializer (R150 to R157): each operation returns the frame its rule gives, in the words of the
statements; and the frame that a retry writes again (R158). -/

namespace Sys2Proof.Machine

open Sys2Proof.Claims

/-! ### The remaining frames in the words of the statements -/

theorem encReq_eq (seq : Word) (v : Bool) : encReq seq v = requestFrame seq v := by
  rw [encReq, encTail_eq, requestFrame, head_eq]

theorem encTerm_eq : encTerm = marker := rfl

theorem trigB0_eq (t : TrigWord) : trigB0 t = b0 t := by
  apply BitVec.eq_of_toNat_eq
  simp only [trigB0, b0, BitVec.extractLsb'_toNat, BitVec.toNat_ofNat, Nat.shiftRight_zero]
  omega

theorem trigB1_eq (t : TrigWord) : trigB1 t = b1 t := by
  apply BitVec.eq_of_toNat_eq
  simp only [trigB1, b1, BitVec.extractLsb'_toNat, BitVec.toNat_ofNat, Nat.shiftRight_eq_div_pow]
  omega

/-- TRIG[16] is the top bit of 17 (R31). -/
theorem trigN2_iff (t : TrigWord) : trigN2 t = true ↔ 65536 ≤ t.toNat := by
  have hmsb : trigN2 t = t.msb := (BitVec.msb_eq_getLsbD_last t).symm
  rw [hmsb, BitVec.msb_eq_true_iff_two_mul_ge]
  omega

theorem encTrigUl_eq (t : TrigWord) : encTrigUl t = [b0 t] := by
  rw [encTrigUl, trigB0_eq]

theorem encTrigDl_eq (t : TrigWord) : encTrigDl t = downloadTrigger t := by
  rw [encTrigDl, downloadTrigger, trigB0_eq, trigB1_eq]
  exact if_congr (trigN2_iff t) rfl rfl

/-! ### The operations (R150 to R157) -/

section
variable (s : State)

theorem exec_encTail (h : Bytes) :
    exec (.encTail h) s = .next { s with ret := .bytes (encTail h) } := rfl

theorem exec_encReq (seq : Word) (v : Bool) :
    exec (.encReq seq v) s = .next { s with ret := .bytes (encReq seq v) } := rfl

theorem exec_encAck (seq : Word) :
    exec (.encAck seq) s = .next { s with ret := .bytes (encAck seq) } := rfl

theorem exec_encUdata (seq : Word) (p : Bytes) :
    exec (.encUdata seq p) s = .next { s with ret := .bytes (encUdata seq p) } := rfl

theorem exec_encReply (seq total : Word) (p : Bytes) :
    exec (.encReply seq total p) s = .next { s with ret := .bytes (encReply seq total p) } := rfl

theorem exec_encTerm : exec .encTerm s = .next { s with ret := .bytes encTerm } := rfl

theorem exec_encTrigUl : exec .encTrigUl s = .next { s with ret := .bytes (encTrigUl s.trig) } := rfl

theorem exec_encTrigDl : exec .encTrigDl s = .next { s with ret := .bytes (encTrigDl s.trig) } := rfl

end

/-- Settles O8: a request is the header alone or with its trailer, and an acknowledgement is the latter. -/
theorem serializerBuildsRequestsAndAcks : Obligations.SerializerBuildsRequestsAndAcks := by
  intro s h seq
  refine ⟨?_, ?_, ?_, ?_⟩
  · rw [exec_encTail, encTail_eq, withCrc]
  · rw [exec_encReq, encReq_eq]; rfl
  · rw [exec_encReq, encReq_eq]; rfl
  · rw [exec_encAck, encAck_eq]; rfl

/-- Settles O9: the frames and their lengths are those of the frame codec. -/
theorem serializerBuildsDataFramesAndReplies : Obligations.SerializerBuildsDataFramesAndReplies := by
  intro s seq total p _
  rw [← encUdata_eq, ← encReply_eq]
  exact ⟨exec_encUdata s seq p, encUdata_length seq p, exec_encReply s seq total p,
    encReply_length seq total p⟩

/-- Settles O10: the second trigger byte follows exactly when TRIG[16] is 1. -/
theorem serializerBuildsMarkerAndTriggers : Obligations.SerializerBuildsMarkerAndTriggers := by
  intro s
  rw [← encTrigUl_eq, ← encTrigDl_eq]
  exact ⟨(exec_encTerm s).trans (by rw [encTerm_eq, marker]), exec_encTrigUl s, exec_encTrigDl s⟩

/-! ### A send that the channel takes, and a poll that rejects what it finds -/

section
variable {s : State}

theorem writeOrFail_of_ok (bs : Bytes) (k : State → State) (h : s.chan = .ok) :
    writeOrFail bs k s = k (emit (.tx bs) s) := by
  rw [writeOrFail, chanWrite_of_ok bs h]

theorem fetchLine_of_valid (h : s.lineValid = true) : fetchLine s = s := if_pos h

/-- UL_SEND writes the held line, `t` being the state with the line fetched (R202). -/
theorem exec_ulSend_of_ok {t : State} (hf : fetchLine s = t) (hp : s.phase = .sending)
    (hcan : s.cancelPend = false) (hch : t.chan = .ok) :
    exec .ulSend s =
      .next { t with out := t.out ++ [.tx (encUdata t.seq (txLine t))], phase := .awaitingAck } :=
  calc
    exec .ulSend s = .next (ulSend s) := if_pos hp
    _ = _ := by
      rw [ulSend, if_neg (Bool.eq_false_iff.mp hcan), hf]
      exact congrArg _ (writeOrFail_of_ok _ _ hch)

/-- UL_POLL empties RXB and goes back to the send (R203, R306). -/
theorem exec_ulPoll_of_err {e : FrameError} (hp : s.phase = .awaitingAck)
    (hd : decAck s.rxb s.seq = .err e) :
    exec .ulPoll s = .next { s with rxb := [], lastErr := some e, phase := .sending } :=
  calc
    exec .ulPoll s = .next (ulPoll s) := if_pos hp
    _ = _ := by rw [ulPoll, chanDrain_fst, hd]; rfl

/-- DL_REQ writes the request for SEQ (R232). -/
theorem exec_dlReq_of_ok (hp : s.phase = .requesting) (hcan : s.cancelPend = false) (hch : s.chan = .ok) :
    exec .dlReq s =
      .next { s with out := s.out ++ [.tx (encReq s.seq s.reqCrc)], phase := .awaitingReply } :=
  calc
    exec .dlReq s = .next (dlReq s) := if_pos hp
    _ = _ := by
      rw [dlReq, if_neg (Bool.eq_false_iff.mp hcan)]
      exact congrArg _ (writeOrFail_of_ok _ _ hch)

/-- DL_POLL empties RXB and goes back to the request (R233, R306). -/
theorem exec_dlPoll_of_err {e : FrameError} (hp : s.phase = .awaitingReply)
    (hd : decReply s.rxb s.seq = .err e) :
    exec .dlPoll s = .next { s with rxb := [], lastErr := some e, phase := .requesting } :=
  calc
    exec .dlPoll s = .next (dlPoll s) := if_pos hp
    _ = _ := by rw [dlPoll, chanDrain_fst, hd]; rfl

end

/-- Settles O58: the first send leaves the line held, so the second one fetches nothing and writes the same bytes
of TXP, whatever SRC then holds (R76); a request depends on SEQ and REQ_CRC alone. The poll between them writes
RXB, LASTERR and STATE. -/
theorem retryWritesTheIdenticalFrame : Obligations.RetryWritesTheIdenticalFrame := by
  refine ⟨fun s e bytes lines hp hcan hch hd => ?_, fun s e bytes hp hcan hch hd => ?_⟩
  · obtain ⟨len, cells, hf⟩ := fetchLine_only s
    exact ⟨_, _, _, _, exec_ulSend_of_ok hf hp hcan hch, exec_ulPoll_of_err rfl hd,
      exec_ulSend_of_ok (fetchLine_of_valid rfl) rfl hcan hch, rfl, List.append_assoc .., rfl, rfl⟩
  · exact ⟨_, _, _, _, exec_dlReq_of_ok hp hcan hch, exec_dlPoll_of_err rfl hd,
      exec_dlReq_of_ok rfl hcan hch, rfl, List.append_assoc .., rfl, rfl⟩

end Sys2Proof.Machine
end

section
/-! PROOFS. The sync detector and the deserializer (R170 to R175): FIND_SYNC finds the first pair, the decoders'
tests in the numbers of the statements, and what they answer to a frame the codec has built. -/

namespace Sys2Proof.Machine

open Sys2Proof.Claims

/-! ### The first pair of a sequence (R91, R170) -/

section
variable {a b : Byte} {buf rest : Bytes} {i j : Nat}

theorem pairAt_cons_succ : pairAt (a :: buf) (i + 1) ↔ pairAt buf i := Iff.rfl

theorem pairAt_cons_zero : pairAt (a :: b :: rest) 0 ↔ a = 0x75 ∧ b = 0x65 := by simp [pairAt]

theorem noPair_nil : noPair [] := fun _ h => nomatch h.1

theorem noPair_singleton : noPair [a] := fun _ h => nomatch h.2

theorem firstPair_zero (h : pairAt buf 0) : firstPair buf 0 := ⟨h, fun j hj => absurd hj j.not_lt_zero⟩

theorem firstPair_cons (h0 : ¬ pairAt (a :: buf) 0) (h : firstPair buf i) : firstPair (a :: buf) (i + 1) :=
  ⟨h.1, fun
    | 0, _ => h0
    | j + 1, hj => h.2 j (Nat.lt_of_succ_lt_succ hj)⟩

theorem noPair_cons (h0 : ¬ pairAt (a :: buf) 0) (h : noPair buf) : noPair (a :: buf) := fun
  | 0 => h0
  | j + 1 => h j

theorem firstPair_unique (hi : firstPair buf i) (hj : firstPair buf j) : i = j := by
  obtain ⟨hpi, hmini⟩ := hi
  obtain ⟨hpj, hminj⟩ := hj
  rcases Nat.lt_trichotomy i j with hlt | heq | hgt
  · exact absurd hpi (hminj i hlt)
  · exact heq
  · exact absurd hpj (hmini j hgt)

/-- A pair behind bytes without one is the first: the byte before it cannot start a pair, since 0x75 is not
0x65. -/
theorem firstPair_append (t : Bytes) (h : noPair buf) :
    firstPair (buf ++ 0x75 :: 0x65 :: t) buf.length := by
  induction buf with
  | nil => exact firstPair_zero (pairAt_cons_zero.mpr ⟨rfl, rfl⟩)
  | cons a rest ih =>
    refine firstPair_cons ?_ (ih fun i => h (i + 1))
    cases rest with
    | nil => exact fun hp => absurd (pairAt_cons_zero.mp hp).2 (by decide)
    | cons b rest => exact fun hp => h 0 (pairAt_cons_zero.mpr (pairAt_cons_zero.mp hp))

/-- FIND_SYNC's recursion passes over one byte that starts no pair. -/
theorem findSync_cases (buf : Bytes) :
    (∃ i, findSync buf = some i ∧ firstPair buf i) ∨ (findSync buf = none ∧ noPair buf) := by
  induction buf using findSync.induct with
  | case1 => exact .inr ⟨rfl, noPair_nil⟩
  | case2 a => exact .inr ⟨rfl, noPair_singleton⟩
  | case3 a b rest hsync =>
    exact .inl ⟨0, if_pos hsync, firstPair_zero (pairAt_cons_zero.mpr hsync)⟩
  | case4 a b rest hsync ih =>
    have h0 : ¬ pairAt (a :: b :: rest) 0 := fun hp => hsync (pairAt_cons_zero.mp hp)
    have hnext : findSync (a :: b :: rest) = (findSync (b :: rest)).map (· + 1) := if_neg hsync
    rw [hnext]
    rcases ih with ⟨i, hi, hfirst⟩ | ⟨hnone, hno⟩
    · exact .inl ⟨i + 1, by rw [hi, Option.map_some], firstPair_cons h0 hfirst⟩
    · exact .inr ⟨by rw [hnone, Option.map_none], noPair_cons h0 hno⟩

theorem findSync_eq_some_iff : findSync buf = some i ↔ firstPair buf i := by
  rcases findSync_cases buf with ⟨j, hj, hfirst⟩ | ⟨hnone, hno⟩
  · rw [hj, Option.some_inj]
    exact ⟨fun h => h ▸ hfirst, firstPair_unique hfirst⟩
  · rw [hnone]
    exact ⟨nofun, fun h => absurd h.1 (hno i)⟩

theorem findSync_eq_none_iff : findSync buf = none ↔ noPair buf := by
  rcases findSync_cases buf with ⟨j, hj, hfirst⟩ | ⟨hnone, hno⟩
  · rw [hj]
    exact ⟨nofun, fun h => absurd hfirst.1 (h j)⟩
  · exact iff_of_true hnone hno

end

/-! ### The operations (R170 to R172) -/

section
variable (buf : Bytes) (seq : Word) (s : State)

theorem exec_findSync : exec (.findSync buf) s = .next { s with ret := .index (findSync buf) } := rfl

theorem exec_decAck : exec (.decAck buf seq) s = .next { s with ret := .ack (decAck buf seq) } := rfl

theorem exec_decReply : exec (.decReply buf seq) s = .next { s with ret := .reply (decReply buf seq) } := rfl

end

/-- Settles O11: the value returned is FIND_SYNC's own. -/
theorem findSyncReturnsTheLeastPair : Obligations.FindSyncReturnsTheLeastPair :=
  fun buf s => ⟨findSync buf, exec_findSync buf s, fun _ => findSync_eq_some_iff, findSync_eq_none_iff⟩

section
variable {buf : Bytes} {i : Nat} (seq : Word)

theorem decAck_of_noPair (h : noPair buf) : decAck buf seq = .err .syncNotFound := by
  rw [decAck, findSync_eq_none_iff.mpr h]

theorem decAck_of_firstPair (h : firstPair buf i) : decAck buf seq = decAckAt (buf.drop i) seq := by
  rw [decAck, findSync_eq_some_iff.mpr h]

theorem decReply_of_noPair (h : noPair buf) : decReply buf seq = .err .syncNotFound := by
  rw [decReply, findSync_eq_none_iff.mpr h]

theorem decReply_of_firstPair (h : firstPair buf i) : decReply buf seq = decReplyAt (buf.drop i) seq := by
  rw [decReply, findSync_eq_some_iff.mpr h]

end

/-! ### The fields behind the pair, in numbers (R61) -/

section
variable (buf : Bytes) (i k : Nat)

theorem byteAt_drop : byteAt (buf.drop i) k = buf.getD (i + k) 0 := by
  simp [byteAt, List.getD_eq_getElem?_getD]

theorem slice_drop (n : Nat) : slice (buf.drop i) k n = (buf.drop (i + k)).take n := by
  rw [slice, List.drop_drop]

/-- A 16-bit field holds every value of its two bytes. -/
theorem wordAt_drop_toNat : (wordAt (buf.drop i) k).toNat = field buf (i + k) := by
  have hhi := (buf.getD (i + k) 0).isLt
  have hlo := (buf.getD (i + k + 1) 0).isLt
  rw [wordAt, byteAt_drop, byteAt_drop, joinBytes, BitVec.toNat_ofNat, field, ← Nat.add_assoc]
  omega

end

/-! ### The decoders' tests, in numbers -/

/-- The tests of R171 on the buffer from index `i` on. -/
theorem decAckAt_drop (buf : Bytes) (i : Nat) (seq : Word) :
    decAckAt (buf.drop i) seq =
      if buf.length - i < 6 then .err .frameTooShort
      else if (crc16 ((buf.drop i).take 4)).toNat ≠ field buf (i + 4) then .err .checksumMismatch
      else if field buf (i + 2) ≠ seq.toNat then .err .sequenceMismatch
      else .ok := by
  simp only [decAckAt, List.length_drop, ne_eq, ← BitVec.toNat_inj, wordAt_drop_toNat, slice_drop,
    Nat.add_zero]

/-- The first length test of R172 is part of the second. -/
theorem decReplyAt_eq (f : Bytes) (seq : Word) :
    decReplyAt f seq =
      let n := (byteAt f 6).toNat
      if f.length < 9 + n then .err .frameTooShort
      else if crc16 (slice f 0 (7 + n)) ≠ wordAt f (7 + n) then .err .checksumMismatch
      else if wordAt f 2 ≠ seq then .err .sequenceMismatch
      else if n = 0 then .err .emptyPayload
      else .ok (wordAt f 4) (slice f 7 n) := by
  by_cases h : f.length < 9
  · exact (if_pos h).trans (if_pos (by omega)).symm
  · exact if_neg h

/-- The tests of R172 on the buffer from index `i` on. -/
theorem decReplyAt_drop (buf : Bytes) (i : Nat) (seq : Word) :
    decReplyAt (buf.drop i) seq =
      let n := (buf.getD (i + 6) 0).toNat
      if buf.length - i < 9 + n then .err .frameTooShort
      else if (crc16 ((buf.drop i).take (7 + n))).toNat ≠ field buf (i + 7 + n) then .err .checksumMismatch
      else if field buf (i + 2) ≠ seq.toNat then .err .sequenceMismatch
      else if n = 0 then .err .emptyPayload
      else .ok (wordAt (buf.drop i) 4) ((buf.drop (i + 7)).take n) := by
  simp only [decReplyAt_eq, List.length_drop, ne_eq, ← BitVec.toNat_inj, wordAt_drop_toNat, byteAt_drop,
    slice_drop, Nat.add_zero, Nat.add_assoc]

/-- Settles O12: the clauses are the branches of the tests in order. -/
theorem decAckClassifiesByTheFirstPair : Obligations.DecAckClassifiesByTheFirstPair := by
  intro buf seq s
  refine ⟨decAck buf seq, exec_decAck buf seq s, decAck_of_noPair seq, fun i hi => ?_⟩
  rw [decAck_of_firstPair seq hi, decAckAt_drop]
  refine ⟨fun hshort => if_pos hshort, fun hlen => ?_⟩
  rw [if_neg (by omega)]
  refine ⟨fun hcrc => if_pos hcrc, fun hcrc => ?_⟩
  rw [if_neg (not_not.mpr hcrc)]
  exact ⟨fun hseq => if_pos hseq, fun hseq => if_neg (not_not.mpr hseq)⟩

/-- Settles O13: the clauses are the branches of the tests in order. -/
theorem decReplyClassifiesByTheFirstPair : Obligations.DecReplyClassifiesByTheFirstPair := by
  intro buf seq s
  refine ⟨decReply buf seq, exec_decReply buf seq s, decReply_of_noPair seq, fun i hi => ?_⟩
  rw [decReply_of_firstPair seq hi, decReplyAt_drop]
  intro n
  refine ⟨fun hshort => if_pos (by omega), fun hlen => ?_⟩
  rw [if_neg (by omega)]
  refine ⟨fun hcrc => if_pos hcrc, fun hcrc => ?_⟩
  rw [if_neg (not_not.mpr hcrc)]
  refine ⟨fun hseq => if_pos hseq, fun hseq => ?_⟩
  rw [if_neg (not_not.mpr hseq)]
  exact ⟨fun hempty => if_pos hempty, fun hn =>
    ⟨wordAt (buf.drop i) 4, wordAt_drop_toNat buf i 4, if_neg hn⟩⟩

/-! ### A built frame with any bytes behind it -/

section
variable (seq : Word) (h t : Bytes)

theorem wordAt_frameHead : wordAt (frameHead seq ++ t) 2 = seq := joinBytes_hi_lo seq

/-- A built frame passes the checksum test whatever stands behind it (R95). -/
theorem encTail_append_crc : crc16 (slice (encTail h ++ t) 0 h.length) = wordAt (encTail h ++ t) h.length := by
  have hsplit : encTail h ++ t = h ++ crcHi h :: crcLo h :: t := by rw [encTail, List.append_assoc]; rfl
  rw [hsplit, wordAt_append rfl, joinBytes_crc, slice, List.drop_zero, List.take_left]

end

section
variable (old seq total : Word) (after : Bytes)

/-- From an acknowledgement on, only the sequence test of R171 is open. -/
theorem decAckAt_encAck :
    decAckAt (encAck old ++ after) seq = if old ≠ seq then .err .sequenceMismatch else .ok := by
  have hlen : ¬ (encAck old ++ after).length < 6 := by
    rw [List.length_append, encAck_length]
    omega
  have hcrc : crc16 (slice (encAck old ++ after) 0 4) = wordAt (encAck old ++ after) 4 :=
    encTail_append_crc (frameHead old) after
  have hseq : wordAt (encAck old ++ after) 2 = old := by
    rw [encAck, encTail, List.append_assoc, wordAt_frameHead]
  rw [decAckAt, if_neg hlen, if_neg (not_not.mpr hcrc), hseq]

/-- The fields of a reply in their order, up to its payload (R99). -/
theorem encReply_append_fields (p : Bytes) :
    ∃ t, encReply old total p ++ after =
      frameHead old ++ hiByte total :: loByte total :: lenByte p :: (p ++ t) := by
  simp [encReply, encTail]

/-- From a reply on, the sequence test and the payload test of R172 are open. -/
theorem decReplyAt_encReply {p : Bytes} (hp : p.length ≤ 255) :
    decReplyAt (encReply old total p ++ after) seq =
      if old ≠ seq then .err .sequenceMismatch else if p = [] then .err .emptyPayload else .ok total p := by
  obtain ⟨t, hsplit⟩ := encReply_append_fields old total after p
  have hn : (byteAt (encReply old total p ++ after) 6).toNat = p.length := by
    rw [hsplit]
    exact lenByte_toNat hp
  have hlen : ¬ (encReply old total p ++ after).length < 9 + p.length := by
    rw [List.length_append, encReply_length]
    omega
  have hcrc : crc16 (slice (encReply old total p ++ after) 0 (7 + p.length)) =
      wordAt (encReply old total p ++ after) (7 + p.length) := by
    have h := encTail_append_crc (frameHead old ++ [hiByte total, loByte total, lenByte p] ++ p) after
    rwa [List.length_append] at h
  have hseq : wordAt (encReply old total p ++ after) 2 = old := by rw [hsplit, wordAt_frameHead]
  have htotal : wordAt (encReply old total p ++ after) 4 = total := by
    rw [hsplit, wordAt_append (frameHead_length old), joinBytes_hi_lo]
  have hpayload : slice (encReply old total p ++ after) 7 p.length = p := by
    rw [hsplit]
    exact List.take_left
  simp only [decReplyAt_eq, hn, if_neg hlen, if_neg (not_not.mpr hcrc), hseq, htotal, hpayload,
    List.length_eq_zero_iff]

end

section
variable {before : Bytes} (old seq total : Word) (after : Bytes)

/-- A built frame behind bytes without a pair is found where it starts. -/
theorem firstPair_append_frame (hb : noPair before) (t : Bytes) :
    firstPair (before ++ (frameHead seq ++ t)) before.length :=
  firstPair_append _ hb

theorem decAck_ackFrame (hb : noPair before) :
    decAck (before ++ ackFrame old ++ after) seq = if old ≠ seq then .err .sequenceMismatch else .ok := by
  rw [List.append_assoc, ← encAck_eq, ← decAckAt_encAck old seq after]
  refine (decAck_of_firstPair seq ?_).trans (by rw [List.drop_left])
  rw [encAck, encTail, List.append_assoc]
  exact firstPair_append_frame old hb _

theorem decReply_replyFrame (hb : noPair before) {p : Bytes} (hp : p.length ≤ 255) :
    decReply (before ++ replyFrame old total p ++ after) seq =
      if old ≠ seq then .err .sequenceMismatch else if p = [] then .err .emptyPayload else .ok total p := by
  rw [List.append_assoc, ← encReply_eq, ← decReplyAt_encReply old seq total after hp]
  refine (decReply_of_firstPair seq ?_).trans (by rw [List.drop_left])
  simp only [encReply, encTail, List.append_assoc]
  exact firstPair_append_frame old hb _

end

/-- Settles O14: the sequence test passes. -/
theorem ackRoundTripsInsideAnyBytes : Obligations.AckRoundTripsInsideAnyBytes := by
  intro before after seq s hb
  rw [exec_decAck, decAck_ackFrame seq seq after hb, if_neg (not_not.mpr rfl)]

/-- Settles O15: the sequence test passes, and the payload test is left. -/
theorem replyRoundTripsInsideAnyBytes : Obligations.ReplyRoundTripsInsideAnyBytes := by
  intro before after p seq total s hb hp
  rw [exec_decReply, decReply_replyFrame seq seq total after hb hp, if_neg (not_not.mpr rfl)]

/-- Settles O16: the frame at index 0 is the first, and its sequence test fails. -/
theorem staleFrameHidesTheRest : Obligations.StaleFrameHidesTheRest := by
  intro old seq total p after s hne hp
  have hack := decAck_ackFrame old seq after noPair_nil
  have hreply := decReply_replyFrame old seq total after noPair_nil hp
  rw [List.nil_append, if_pos hne] at hack hreply
  exact ⟨by rw [exec_decAck, hack], by rw [exec_decReply, hreply]⟩

end Sys2Proof.Machine
end

section
/-! PROOFS. The upload sequencer (R202 to R205, R342): what each of its steps answers on every path, that
PROGRESS never falls, and that a prompt link brings an upload of any length to its end. -/

namespace Sys2Proof.Machine

open Sys2Proof.Claims

/-! ### Progress and writes -/

/-- Progress is the clamped quotient of the statements, as wide as PROGRESS (R272). -/
theorem prog_eq_percent (seq total : Word) : prog seq total = BitVec.ofNat 7 (percent seq total) := by
  rw [prog, progNat, percent]
  split
  case isTrue => rfl
  case isFalse =>
    congr 1
    simp only
    split
    case isTrue h => exact (Nat.min_eq_left h.le).symm
    case isFalse h => exact (Nat.min_eq_right (not_lt.mp h)).symm

section
variable {s : State}

theorem writeOrFail_of_err (bs : Bytes) (k : State → State) {n : Nat} (h : s.chan = .err n) :
    writeOrFail bs k s = fail .ioError (emit (.txFail (bs.take n)) s) := by
  rw [writeOrFail, chanWrite_of_err bs h]

/-! ### UL_SEND (R202) -/

theorem fetchLine_of_not_valid (h : s.lineValid = false) :
    fetchLine s =
      { s with
        txLen := lenByte (srcLine s.seq s), txp := Memory.writeAll s.txp 0 (srcLine s.seq s)
        lineValid := true } :=
  if_neg (Bool.eq_false_iff.mp h)

theorem zero_add_srcLine_length_le (k : Word) (s : State) : 0 + (srcLine k s).length ≤ Memory.size := by
  simpa [Memory.size] using srcLine_length_le k s

/-- A fetched line stands at the indices below its length; the rest of TXP reads as before. -/
theorem read_fetchLine_txp (hw : s.txp.wf = true) (h : s.lineValid = false) (a : Nat) :
    Memory.read (fetchLine s).txp a =
      if a < (srcLine s.seq s).length then (srcLine s.seq s).getD a 0 else Memory.read s.txp a := by
  rw [fetchLine_of_not_valid h]
  simpa using Memory.read_writeAll hw (zero_add_srcLine_length_le s.seq s) a

/-- `s` with the line in TXP, its length in TXLEN, and LINE_VALID set (R202). -/
def holdLine (line : Bytes) (cells : Memory) (s : State) : State :=
  { s with txLen := BitVec.ofNat 8 line.length, txp := cells, lineValid := true }

theorem fetchLine_eq_holdLine (s : State) :
    fetchLine s = holdLine (txLine (fetchLine s)) (fetchLine s).txp s := by
  obtain ⟨len, cells, hf⟩ := fetchLine_only s
  simp [hf, holdLine, txLine]

theorem exec_ulSend_cancelled (hp : s.phase = .sending) (hcan : s.cancelPend = true) :
    exec .ulSend s = .next (fail .cancelled (closeReq s)) :=
  calc
    exec .ulSend s = .next (ulSend s) := if_pos hp
    _ = _ := congrArg _ (if_pos hcan)

/-- UL_SEND that is not cancelled writes the data frame of the line it holds, held before or fetched. -/
theorem exec_ulSend_write (hp : s.phase = .sending) (hcan : s.cancelPend = false) :
    exec .ulSend s =
      .next (writeOrFail (dataFrame s.seq (txLine (fetchLine s))) (fun t => { t with phase := .awaitingAck })
        (holdLine (txLine (fetchLine s)) (fetchLine s).txp s)) := by
  have hseq : (fetchLine s).seq = s.seq := by rw [fetchLine_eq_holdLine]; rfl
  calc
    exec .ulSend s = .next (ulSend s) := if_pos hp
    _ = _ := by simp [ulSend, hcan, hseq, encUdata_eq, ← fetchLine_eq_holdLine]

/-- UL_SEND of a line that is not held, on a channel that takes it. -/
theorem exec_ulSend_fetched (hw : s.txp.wf = true) (hv : s.lineValid = false) (hp : s.phase = .sending)
    (hcan : s.cancelPend = false) (hch : s.chan = .ok) :
    exec .ulSend s =
      .next { s with
        txLen := lenByte (srcLine s.seq s), txp := Memory.writeAll s.txp 0 (srcLine s.seq s)
        lineValid := true, out := s.out ++ [.tx (dataFrame s.seq (srcLine s.seq s))]
        phase := .awaitingAck } := by
  rw [exec_ulSend_write hp hcan, txLine_fetched hw hv, fetchLine_of_not_valid hv]
  exact congrArg _ (writeOrFail_of_ok _ _ hch)

/-- Settles O36: the line is what TXP holds after the fetch. -/
theorem uploadSendFollowsItsRule : Obligations.UploadSendFollowsItsRule := by
  intro s hp hw
  refine ⟨exec_ulSend_cancelled hp, fun hcan => ⟨txLine (fetchLine s), (fetchLine s).txp, ?_, ?_, ?_, ?_⟩⟩
  · intro hv
    rw [fetchLine_of_valid hv]
    exact ⟨rfl, rfl⟩
  · intro hv
    rw [txLine_fetched hw hv]
    exact ⟨rfl, read_fetchLine_txp hw hv⟩
  · exact fun hch => (exec_ulSend_write hp hcan).trans (congrArg _ (writeOrFail_of_ok _ _ hch))
  · exact fun k hch => (exec_ulSend_write hp hcan).trans (congrArg _ (writeOrFail_of_err _ _ hch))

/-! ### UL_POLL (R203) -/

theorem exec_ulPoll_of_ok (hp : s.phase = .awaitingAck) (hd : decAck s.rxb s.seq = .ok) :
    exec .ulPoll s = .next (ackAccepted (chanDrain s).2) :=
  calc
    exec .ulPoll s = .next (ulPoll s) := if_pos hp
    _ = _ := by rw [ulPoll, chanDrain_fst, hd]

/-- The acknowledgement of the last line ends the upload. -/
theorem exec_ulPoll_last (hp : s.phase = .awaitingAck) (hd : decAck s.rxb s.seq = .ok)
    (hlast : s.total.toNat ≤ s.seq.toNat) :
    exec .ulPoll s = .next { s with rxb := [], progress := prog s.seq s.total, phase := .done } := by
  rw [exec_ulPoll_of_ok hp hd]
  rcases ackAccepted_cases (chanDrain s).2 with ⟨-, e⟩ | ⟨hmore, -⟩
  · exact congrArg _ e
  · exact absurd hmore (not_lt.mpr hlast)

/-- The acknowledgement of an earlier line advances to the next. -/
theorem exec_ulPoll_more (hp : s.phase = .awaitingAck) (hd : decAck s.rxb s.seq = .ok)
    (hmore : s.seq.toNat < s.total.toNat) :
    exec .ulPoll s =
      .next { s with
        rxb := [], progress := prog s.seq s.total, seq := s.seq + 1, lineValid := false
        phase := .sending } := by
  rw [exec_ulPoll_of_ok hp hd]
  rcases ackAccepted_cases (chanDrain s).2 with ⟨hlast, -⟩ | ⟨-, e⟩
  · exact absurd hmore (not_lt.mpr hlast)
  · exact congrArg _ e

end

/-- Settles O37: an accepted acknowledgement is one of the last line or of an earlier one; a frame error is
the retry. -/
theorem uploadPollFollowsItsRule : Obligations.UploadPollFollowsItsRule := by
  intro s hp
  refine ⟨fun hd => ?_, fun e hd => exec_ulPoll_of_err hp hd⟩
  rw [← prog_eq_percent]
  exact ⟨fun hlast => exec_ulPoll_last hp hd (Nat.le_of_lt_succ hlast), exec_ulPoll_more hp hd⟩

/-! ### UL_DONE (R204) -/

section
variable {s : State}

theorem exec_ulDone_write (hp : s.phase = .done) (hm : s.mode = .upload) :
    exec .ulDone s =
      .next (writeOrFail marker (fun t => { (chanDrain t).2 with phase := .terminated }) s) :=
  calc
    exec .ulDone s = .next (ulDone s) := if_pos ⟨hp, hm⟩
    _ = _ := by rw [ulDone, encTerm_eq]

theorem exec_ulDone_of_ok (hp : s.phase = .done) (hm : s.mode = .upload) (hch : s.chan = .ok) :
    exec .ulDone s = .next { s with out := s.out ++ [.tx marker], rxb := [], phase := .terminated } := by
  rw [exec_ulDone_write hp hm, writeOrFail_of_ok _ _ hch]
  rfl

end

/-- Settles O38: by the channel's answer to the marker. -/
theorem uploadDoneFollowsItsRule : Obligations.UploadDoneFollowsItsRule := by
  intro s hp hm
  refine ⟨exec_ulDone_of_ok hp hm, fun k hch => ?_⟩
  rw [exec_ulDone_write hp hm, writeOrFail_of_err _ _ hch]
  rfl

/-! ### PROGRESS (R205) -/

section
variable {s : State}

@[simp] theorem ulSend_progress : (ulSend s).progress = s.progress := by
  obtain ⟨len, cells, hf⟩ := fetchLine_only s
  unfold ulSend
  split
  · rfl
  · rw [hf]
    exact writeOrFail_elim (P := fun t => t.progress = s.progress) (fun _ => rfl) fun _ => rfl

@[simp] theorem ulDone_progress : (ulDone s).progress = s.progress :=
  writeOrFail_elim (P := fun t => t.progress = s.progress) (fun _ => rfl) fun _ => rfl

/-- An accepted line counts one line more than PROGRESS stood for; the last one makes it 100. -/
theorem progress_le_ackAccepted (h : SessionInv s) (hp : s.phase = .awaitingAck) :
    s.progress.toNat ≤ (ackAccepted s).progress.toNat := by
  rcases ackAccepted_cases s with ⟨hlast, e⟩ | ⟨hmore, e⟩ <;> rw [e] <;> simp only
  · rw [prog_of_le hlast]
    exact h.progress_le
  · rw [h.upload_progress (.inr hp), prog_toNat_of_lt hmore]
    exact Nat.div_le_div_right (by omega)

theorem progress_le_ulPoll (h : SessionInv s) (hp : s.phase = .awaitingAck) :
    s.progress.toNat ≤ (ulPoll s).progress.toNat := by
  have hdrain : SessionInv (chanDrain s).2 := { h with }
  unfold ulPoll
  split
  · exact progress_le_ackAccepted hdrain hp
  · exact le_rfl

end

/-- Settles O56: of the moves an upload can make only the poll writes PROGRESS, but for those that lead to
IDLE; the others ask for another STATE or MODE. -/
theorem uploadProgressNeverFalls : Obligations.UploadProgressNeverFalls := by
  intro s t h hs hm hp hidle
  obtain ⟨e, agenda, standing, -, m⟩ := step_move hs
  have hu : SessionInv { s with agenda := agenda, standing := standing } := { h with }
  cases m with
  | quiet q => cases q; exact le_rfl
  | ulSend | ulDone => simp
  | ulPoll _ hack => exact progress_le_ulPoll hu hack
  | cancel | abortProto | writeTotal => exact le_rfl
  | clear | hwReset => exact absurd rfl hidle
  | dlReq hx | dlPoll _ hx | startUl _ hx | startDl _ hx =>
    exact absurd hp (by simp [show s.phase = _ from hx])
  | dlDone _ hdl => exact absurd (hm.symm.trans hdl) nofun

/-! ### A prompt link (R200 to R205, R342) -/

/-- The frames of the lines 1 to `k` of `s`, as OUT holds them. -/
def sentFrames (s : State) (k : Nat) : List OutEvent :=
  (List.range k).map fun j => .tx (dataFrame (BitVec.ofNat 16 (j + 1)) (srcLine (BitVec.ofNat 16 (j + 1)) s))

theorem sentFrames_succ (s : State) (k : Nat) :
    sentFrames s (k + 1) =
      sentFrames s k ++ [.tx (dataFrame (BitVec.ofNat 16 (k + 1)) (srcLine (BitVec.ofNat 16 (k + 1)) s))] := by
  simp [sentFrames, List.range_succ]

/-- What happens to line `k + 1` over a prompt link: its send, its acknowledgement, the poll. -/
def ackedTurns (k : Nat) : List Event :=
  [.turn, .access (.deviceSend .upload (ackFrame (BitVec.ofNat 16 (k + 1)))), .turn]

theorem promptAcks_eq (n : Nat) : promptAcks n = (List.range' 0 n).flatMap ackedTurns ++ [.turn] := by
  rw [← List.range_eq_range']
  rfl

/-- `s` in SENDING with `k` lines acknowledged. -/
def beforeLine (s : State) (k : Nat) (progress : BitVec 7) (len : Byte) (cells : Memory)
    (agenda : List Event) : State :=
  { s with
    phase := .sending, seq := BitVec.ofNat 16 (k + 1), progress := progress, txLen := len, txp := cells
    lineValid := false, rxb := [], out := s.out ++ sentFrames s k, agenda := agenda }

/-- `s` in AWAITING_ACK with line `k + 1` sent and `rxb` in RXB. -/
def lineSent (s : State) (k : Nat) (progress : BitVec 7) (len : Byte) (cells : Memory) (rxb : Bytes)
    (agenda : List Event) : State :=
  { s with
    phase := .awaitingAck, seq := BitVec.ofNat 16 (k + 1), progress := progress, txLen := len, txp := cells
    lineValid := true, rxb := rxb, out := s.out ++ sentFrames s (k + 1), agenda := agenda }

/-- `s` in DONE with all of its `n` lines acknowledged. -/
def allAcked (s : State) (n : Nat) (len : Byte) (cells : Memory) (agenda : List Event) : State :=
  { s with
    phase := .done, seq := BitVec.ofNat 16 n, progress := 100, txLen := len, txp := cells
    lineValid := true, rxb := [], out := s.out ++ sentFrames s n, agenda := agenda }

theorem upcoming_scheduled {s : State} {e : Event} {rest : List Event} (h : s.agenda = e :: rest) :
    upcoming s e { s with agenda := rest } :=
  .inl ⟨rest, .inl h, rfl⟩

/-- A scheduled turn in an upload is the operation its STATE selects. -/
theorem step_scheduled_turn (p : Phase) {s t : State} {i : Instr} {rest : List Event}
    (ha : s.agenda = .turn :: rest) (hp : s.phase = p) (hm : s.mode = .upload)
    (hd : decode (.dispatch (BitVec.ofBool (modeBit .upload) ++ phaseCode p)) = .ok i)
    (hw : i.wellFormed = true) (hx : exec i { s with agenda := rest } = .next t) : step s = .next t :=
  (step_turn (upcoming_scheduled ha) hp hm hd hw).trans hx

section
variable {s : State} {k : Nat} {progress : BitVec 7} {len : Byte} {cells : Memory} {more : List Event}

/-- The send of line `k + 1`: its bytes go to TXP and its frame to OUT. -/
theorem step_beforeLine {line : Bytes} (hline : srcLine (BitVec.ofNat 16 (k + 1)) s = line)
    (hm : s.mode = .upload) (hcan : s.cancelPend = false) (hch : s.chan = .ok) (hw : cells.wf = true) :
    step (beforeLine s k progress len cells (.turn :: more)) =
      .next (lineSent s k progress (lenByte line) (Memory.writeAll cells 0 line) [] more) := by
  subst hline
  rw [lineSent, sentFrames_succ, ← List.append_assoc]
  exact step_scheduled_turn .sending rfl rfl hm rfl rfl (exec_ulSend_fetched hw rfl rfl hcan hch)

/-- The acknowledgement arrives in RXB (R67). -/
theorem step_lineSent_ack (hcap : s.rxbCap = none) :
    step (lineSent s k progress len cells []
        (.access (.deviceSend .upload (ackFrame (BitVec.ofNat 16 (k + 1)))) :: more)) =
      .next (lineSent s k progress len cells (ackFrame (BitVec.ofNat 16 (k + 1))) more) := by
  have hdec : decode (.deviceSend .upload (ackFrame (BitVec.ofNat 16 (k + 1)))) =
      .ok (.fAck (BitVec.ofNat 16 (k + 1))) := by
    rw [← encAck_eq]
    exact decodeInvertsEncode _ _ rfl rfl
  rw [step_upcoming_access (upcoming_scheduled rfl) hdec rfl]
  exact (deviceToHostFormatsArrive _ _ _ (.inl ⟨_, rfl, rfl⟩)).1 hcap

theorem decAck_own_ackFrame (seq : Word) : decAck (ackFrame seq) seq = .ok := by
  simpa using decAck_ackFrame seq seq [] noPair_nil

theorem toNat_line_of_le {total : Word} (h : k + 1 ≤ total.toNat) :
    (BitVec.ofNat 16 (k + 1)).toNat = k + 1 := by
  have := total.isLt
  exact Nat.mod_eq_of_lt (by omega)

theorem step_lineSent_more (hm : s.mode = .upload) (hk : k + 1 < s.total.toNat) :
    step (lineSent s k progress len cells (ackFrame (BitVec.ofNat 16 (k + 1))) (.turn :: more)) =
      .next (beforeLine s (k + 1) (prog (BitVec.ofNat 16 (k + 1)) s.total) len cells more) := by
  have hlt : (BitVec.ofNat 16 (k + 1)).toNat < s.total.toNat := by rwa [toNat_line_of_le hk.le]
  rw [beforeLine, BitVec.ofNat_add (k + 1) 1]
  exact step_scheduled_turn .awaitingAck rfl rfl hm rfl rfl (exec_ulPoll_more rfl (decAck_own_ackFrame _) hlt)

theorem step_lineSent_last (hm : s.mode = .upload) (hk : k + 1 = s.total.toNat) :
    step (lineSent s k progress len cells (ackFrame (BitVec.ofNat 16 (k + 1))) (.turn :: more)) =
      .next (allAcked s (k + 1) len cells more) := by
  have hle : s.total.toNat ≤ (BitVec.ofNat 16 (k + 1)).toNat := by rw [toNat_line_of_le hk.le, hk]
  rw [allAcked, ← prog_of_le hle]
  exact step_scheduled_turn .awaitingAck rfl rfl hm rfl rfl (exec_ulPoll_last rfl (decAck_own_ackFrame _) hle)

/-- From the send of line `k + 1`, with `i` lines behind it, to DONE. -/
theorem run_to_allAcked (hm : s.mode = .upload) (hcan : s.cancelPend = false) (hch : s.chan = .ok)
    (hcap : s.rxbCap = none) {i : Nat} (hn : k + i + 1 = s.total.toNat) (hw : cells.wf = true) (m : Nat) :
    ∃ len' cells',
      Sys2Proof.core.run (m + 3 * (i + 1))
          (beforeLine s k progress len cells ((List.range' k (i + 1)).flatMap ackedTurns ++ more)) =
        Sys2Proof.core.run m (allAcked s s.total.toNat len' cells' more) := by
  induction i generalizing k progress len cells with
  | zero =>
    exact ⟨_, _, calc
      _ = Sys2Proof.core.run (m + 2) _ :=
        run_next (M := Sys2Proof.core) (step_beforeLine rfl hm hcan hch hw) _
      _ = Sys2Proof.core.run (m + 1) _ := run_next (M := Sys2Proof.core) (step_lineSent_ack hcap) _
      _ = Sys2Proof.core.run m (allAcked s (k + 1) _ _ more) :=
        run_next (M := Sys2Proof.core) (step_lineSent_last hm hn) _
      _ = _ := by rw [← hn]⟩
  | succ i ih =>
    have hw' := Memory.writeAll_wf hw (zero_add_srcLine_length_le (BitVec.ofNat 16 (k + 1)) s)
    obtain ⟨len', cells', hrest⟩ := ih (k := k + 1) (by omega) hw'
    exact ⟨len', cells', calc
      _ = Sys2Proof.core.run (m + 3 * (i + 1) + 2) _ :=
        run_next (M := Sys2Proof.core) (step_beforeLine rfl hm hcan hch hw) _
      _ = Sys2Proof.core.run (m + 3 * (i + 1) + 1) _ :=
        run_next (M := Sys2Proof.core) (step_lineSent_ack hcap) _
      _ = Sys2Proof.core.run (m + 3 * (i + 1)) _ :=
        run_next (M := Sys2Proof.core) (step_lineSent_more hm (by omega)) _
      _ = _ := hrest⟩

end

/-- Settles O59: the rounds of the lines lead to DONE, where the last turn writes the marker. -/
theorem uploadCompletesWithPromptAcks : Obligations.UploadCompletesWithPromptAcks := by
  intro s n rest hp hm hseq htotal hn hcan hlv hch hcap hrxb hw ha
  obtain ⟨i, rfl⟩ : ∃ i, n = i + 1 := ⟨n - 1, by omega⟩
  have hstart : s = beforeLine s 0 s.progress s.txLen s.txp
      ((List.range' 0 (i + 1)).flatMap ackedTurns ++ .turn :: rest) := by
    rw [promptAcks_eq, List.append_assoc] at ha
    cases s
    simp_all [beforeLine, sentFrames]
  obtain ⟨len, cells, hrun⟩ := run_to_allAcked (k := 0) (i := i) (progress := s.progress)
    (len := s.txLen) (more := .turn :: rest) hm hcan hch hcap (by omega) hw 1
  rw [← hstart, htotal] at hrun
  have hdone := step_scheduled_turn .done (s := allAcked s (i + 1) len cells (.turn :: rest)) rfl rfl hm
    rfl rfl (exec_ulDone_of_ok rfl hm hch)
  rw [Nat.add_comm (3 * (i + 1)) 1]
  refine ⟨_, hrun.trans (run_next (M := Sys2Proof.core) hdone 0), rfl, rfl, ?_, rfl, rfl, rfl⟩
  rw [allAcked, ← htotal]
  exact BitVec.ofNat_toNat ..

end Sys2Proof.Machine
end

section
/-! PROOFS. The download sequencer (R232 to R237, R342): what each of its steps answers on every path, and that a
prompt link brings a download of any length to its end, with the device's lines in LOG. -/

namespace Sys2Proof.Machine

open Sys2Proof.Claims

/-! ### DL_REQ (R232) -/

section
variable {s : State}

theorem exec_dlReq_cancelled (hp : s.phase = .requesting) (hcan : s.cancelPend = true) :
    exec .dlReq s = .next (fail .cancelled (closeReq s)) :=
  calc
    exec .dlReq s = .next (dlReq s) := if_pos hp
    _ = _ := congrArg _ (if_pos hcan)

theorem exec_dlReq_of_err {k : Nat} (hp : s.phase = .requesting) (hcan : s.cancelPend = false)
    (hch : s.chan = .err k) :
    exec .dlReq s = .next (fail .ioError (emit (.txFail ((encReq s.seq s.reqCrc).take k)) s)) :=
  calc
    exec .dlReq s = .next (dlReq s) := if_pos hp
    _ = _ := by rw [dlReq, if_neg (Bool.eq_false_iff.mp hcan), writeOrFail_of_err _ _ hch]

end

/-- Settles O39: by CANCEL_PEND, then by the channel's answer to the request. -/
theorem downloadRequestFollowsItsRule : Obligations.DownloadRequestFollowsItsRule := by
  intro s hp
  rw [← encReq_eq]
  exact ⟨exec_dlReq_cancelled hp, fun hcan => ⟨exec_dlReq_of_ok hp hcan, fun _ => exec_dlReq_of_err hp hcan⟩⟩

/-! ### DL_POLL (R233, R235) -/

section
variable {s : State} (n : Word)

theorem learnTotal_of_field (h : s.countSrc = .field) :
    learnTotal n s = { s with total := n, totalValid := true } := by
  rw [learnTotal, h]

theorem learnTotal_of_text (h : s.countSrc = .text) : learnTotal n s = s := by
  rw [learnTotal, h]

/-- What a reply that counts `n` lines leaves in TOTAL and TOTAL_VALID, by the source of the count (R235). -/
theorem learnTotal_by_countSrc (s : State) :
    ∃ total valid,
      (s.countSrc = .field → total = n ∧ valid = true) ∧
        (s.countSrc = .text → total = s.total ∧ valid = s.totalValid) ∧
        learnTotal n s = { s with total := total, totalValid := valid } := by
  refine ⟨(learnTotal n s).total, (learnTotal n s).totalValid, fun h => ?_, fun h => ?_, ?_⟩
  · rw [learnTotal_of_field n h]
    exact ⟨rfl, rfl⟩
  · rw [learnTotal_of_text n h]
    exact ⟨rfl, rfl⟩
  · unfold learnTotal
    split <;> rfl

/-- Where the announced count is that of the replies, TOTAL is that count after a reply. -/
theorem learnTotal_of_agreed (h : s.countSrc = .text → s.total = n) :
    ∃ valid, learnTotal n s = { s with total := n, totalValid := valid } := by
  obtain ⟨total, valid, hfield, htext, hl⟩ := learnTotal_by_countSrc n s
  have htotal : total = n := by
    cases hc : s.countSrc with
    | field => exact (hfield hc).1
    | text => exact (htext hc).1.trans (h hc)
  exact ⟨valid, htotal ▸ hl⟩

theorem learnTotal_drained : learnTotal n (chanDrain s).2 = (chanDrain (learnTotal n s)).2 := by
  unfold learnTotal
  cases h : s.countSrc <;> simp [chanDrain, h]

variable {n}

/-- DL_POLL of an accepted reply, `total` and `valid` being what the reply leaves in TOTAL and TOTAL_VALID. -/
theorem exec_dlPoll_of_ok {p : Bytes} {total : Word} {valid : Bool} (hp : s.phase = .awaitingReply)
    (hd : decReply s.rxb s.seq = .ok n p)
    (hl : learnTotal n s = { s with total := total, totalValid := valid }) :
    exec .dlPoll s =
      .next { s with
        rxb := [], total := total, totalValid := valid, log := s.log ++ [p], progress := prog s.seq total
        seq := if s.seq.toNat < total.toNat then s.seq + 1 else s.seq
        phase := if s.seq.toNat < total.toNat then .requesting else .done } := by
  have hdrained : learnTotal n (chanDrain s).2 =
      { s with rxb := [], total := total, totalValid := valid } := by
    rw [learnTotal_drained, hl]
    rfl
  calc
    exec .dlPoll s = .next (dlPoll s) := if_pos hp
    _ = .next (replyAccepted n p (chanDrain s).2) := by rw [dlPoll, chanDrain_fst, hd]
    _ = _ := by
      by_cases hmore : s.seq.toNat < total.toNat <;>
        simp [replyAccepted, hdrained, logAppend, lastPacket_iff, hmore]

end

/-- Settles O40: an accepted reply leaves what `learnTotal_by_countSrc` says and is the last or an earlier one; a
frame error is the retry. -/
theorem downloadPollFollowsItsRule : Obligations.DownloadPollFollowsItsRule := by
  intro s hp
  refine ⟨fun n p hd => ?_, fun e hd => exec_dlPoll_of_err hp hd⟩
  obtain ⟨total, valid, hfield, htext, hl⟩ := learnTotal_by_countSrc n s
  have hpoll := exec_dlPoll_of_ok hp hd hl
  refine ⟨total, valid, hfield, htext, fun hlast => ?_, fun hmore => ?_⟩ <;> rw [← prog_eq_percent]
  · simpa only [if_neg (Nat.not_lt_of_le (Nat.le_of_lt_succ hlast))] using hpoll
  · simpa only [if_pos (Nat.lt_of_succ_le hmore)] using hpoll

/-! ### DL_DONE (R234) -/

section
variable {s : State}

theorem exec_dlDone_write (hp : s.phase = .done) (hm : s.mode = .download) :
    exec .dlDone s =
      .next (writeOrFail marker (fun t => { closeReq t with phase := .terminated }) s) :=
  calc
    exec .dlDone s = .next (dlDone s) := if_pos ⟨hp, hm⟩
    _ = _ := by rw [dlDone, encTerm_eq]

theorem exec_dlDone_of_ok (hp : s.phase = .done) (hm : s.mode = .download) (hch : s.chan = .ok) :
    exec .dlDone s = .next { s with out := s.out ++ [.tx marker, .close], phase := .terminated } := by
  rw [exec_dlDone_write hp hm, writeOrFail_of_ok _ _ hch]
  simp [closeReq, emit]

end

/-- Settles O41: by the channel's answer to the marker. -/
theorem downloadDoneFollowsItsRule : Obligations.DownloadDoneFollowsItsRule := by
  intro s hp hm
  refine ⟨exec_dlDone_of_ok hp hm, fun k hch => ?_⟩
  rw [exec_dlDone_write hp hm, writeOrFail_of_err _ _ hch]
  rfl

/-! ### A prompt link (R230 to R237, R342) -/

/-- The requests for the lines 1 to `k` in the form REQ_CRC selects, as OUT holds them. -/
def sentRequests (s : State) (k : Nat) : List OutEvent :=
  (List.range k).map fun j => .tx (requestFrame (BitVec.ofNat 16 (j + 1)) s.reqCrc)

theorem sentRequests_succ (s : State) (k : Nat) :
    sentRequests s (k + 1) = sentRequests s k ++ [.tx (requestFrame (BitVec.ofNat 16 (k + 1)) s.reqCrc)] := by
  simp [sentRequests, List.range_succ]

/-- The count that the device gives in each of its replies. -/
def lineCount (lines : List Bytes) : Word := BitVec.ofNat 16 lines.length

/-- The reply of the device to the request for line `k + 1`. -/
def lineReply (lines : List Bytes) (k : Nat) : Bytes :=
  replyFrame (BitVec.ofNat 16 (k + 1)) (lineCount lines) (lines.getD k [])

/-- What happens to line `k + 1` over a prompt link: its request, its reply, the poll. -/
def repliedTurns (lines : List Bytes) (k : Nat) : List Event :=
  [.turn, .access (.deviceSend .download (lineReply lines k)), .turn]

theorem promptReplies_eq (lines : List Bytes) :
    promptReplies lines = (List.range' 0 lines.length).flatMap (repliedTurns lines) ++ [.turn] := by
  rw [← List.range_eq_range']
  rfl

/-- A download of `lines` that nothing stops: what the steps of its rounds ask of `s` and leave as it is. -/
structure PromptDownload (s : State) (lines : List Bytes) : Prop where
  mode : s.mode = .download
  cancelPend : s.cancelPend = false
  chan : s.chan = .ok
  rxbCap : s.rxbCap = none
  length_le : lines.length ≤ 65535
  lines_fit : ∀ l ∈ lines, 1 ≤ l.length ∧ l.length ≤ 255
  announced : s.countSrc = .text → s.total = lineCount lines

/-- `s` with `k` of the lines in LOG: in REQUESTING at the next line while there is one, else in DONE at the
last. -/
def linesIn (s : State) (lines : List Bytes) (k : Nat) (agenda : List Event) : State :=
  { s with
    phase := if k < lines.length then .requesting else .done
    seq := if k < lines.length then BitVec.ofNat 16 (k + 1) else BitVec.ofNat 16 k
    rxb := [], log := lines.take k, out := s.out ++ sentRequests s k, agenda := agenda }

/-- `s` in AWAITING_REPLY with line `k + 1` requested and `rxb` in RXB. -/
def lineRequested (s : State) (lines : List Bytes) (k : Nat) (rxb : Bytes) (agenda : List Event) : State :=
  { s with
    phase := .awaitingReply, seq := BitVec.ofNat 16 (k + 1)
    rxb := rxb, log := lines.take k, out := s.out ++ sentRequests s (k + 1), agenda := agenda }

/-- `s` with what the reply to the request for line `k` leaves in TOTAL, TOTAL_VALID and PROGRESS. -/
def counted (s : State) (lines : List Bytes) (k : Nat) (valid : Bool) : State :=
  { s with
    total := lineCount lines, totalValid := valid
    progress := prog (BitVec.ofNat 16 k) (lineCount lines) }

section
variable {s : State} {lines : List Bytes} {k : Nat} (h : PromptDownload s lines) {more : List Event}
include h

theorem PromptDownload.counted (k : Nat) (valid : Bool) : PromptDownload (counted s lines k valid) lines :=
  { h with announced := fun _ => rfl }

theorem PromptDownload.toNat_ofNat (hk : k ≤ lines.length) : (BitVec.ofNat 16 k).toNat = k := by
  have := h.length_le
  exact Nat.mod_eq_of_lt (by omega)

theorem PromptDownload.getD_fits (hk : k < lines.length) :
    1 ≤ (lines.getD k []).length ∧ (lines.getD k []).length ≤ 255 := by
  rw [List.getD_eq_getElem _ _ hk]
  exact h.lines_fit _ (List.getElem_mem hk)

/-- The request for line `k + 1`. -/
theorem step_linesIn (hk : k < lines.length) :
    step (linesIn s lines k (.turn :: more)) = .next (lineRequested s lines k [] more) :=
  calc
    step (linesIn s lines k (.turn :: more)) = exec .dlReq (linesIn s lines k more) :=
      step_turn (p := .requesting) (upcoming_scheduled rfl) (if_pos hk) h.mode rfl rfl
    _ = _ := exec_dlReq_of_ok (if_pos hk) h.cancelPend h.chan
    _ = _ := by simp [linesIn, lineRequested, sentRequests_succ, encReq_eq, hk]

/-- The reply arrives in RXB (R67). -/
theorem step_lineRequested_reply (hk : k < lines.length) :
    step (lineRequested s lines k [] (.access (.deviceSend .download (lineReply lines k)) :: more)) =
      .next (lineRequested s lines k (lineReply lines k) more) := by
  obtain ⟨-, hle⟩ := h.getD_fits hk
  have hdec : decode (.deviceSend .download (lineReply lines k)) =
      .ok (.fReply (BitVec.ofNat 16 (k + 1)) (lineCount lines) (lines.getD k [])) := by
    rw [lineReply, ← encReply_eq]
    exact decodeInvertsEncode _ _ (decide_eq_true hle) rfl
  rw [step_upcoming_access (upcoming_scheduled rfl) hdec (decide_eq_true hle)]
  exact (deviceToHostFormatsArrive _ _ _ (.inr ⟨_, _, _, rfl, hle, rfl⟩)).1 h.rxbCap

theorem decReply_lineReply (hk : k < lines.length) :
    decReply (lineReply lines k) (BitVec.ofNat 16 (k + 1)) = .ok (lineCount lines) (lines.getD k []) := by
  obtain ⟨hpos, hle⟩ := h.getD_fits hk
  have hd := decReply_replyFrame (BitVec.ofNat 16 (k + 1)) (BitVec.ofNat 16 (k + 1)) (lineCount lines) []
    noPair_nil hle
  rwa [List.nil_append, List.append_nil, if_neg (not_not.mpr rfl),
    if_neg (List.ne_nil_of_length_pos hpos)] at hd

/-- The poll takes line `k + 1` to LOG and the count to TOTAL. -/
theorem step_lineRequested_poll (hk : k < lines.length) :
    ∃ valid, step (lineRequested s lines k (lineReply lines k) (.turn :: more)) =
      .next (linesIn (counted s lines (k + 1) valid) lines (k + 1) more) := by
  obtain ⟨valid, hl⟩ := learnTotal_of_agreed (s := lineRequested s lines k (lineReply lines k) more)
    (lineCount lines) h.announced
  have hcount : (lineCount lines).toNat = lines.length := h.toNat_ofNat le_rfl
  have hseq : (k + 1) % 65536 = k + 1 := h.toNat_ofNat hk
  have hlog : lines.take (k + 1) = lines.take k ++ [lines.getD k []] := by
    rw [List.getD_eq_getElem _ _ hk, List.take_concat_get']
  exact ⟨valid, calc
    step (lineRequested s lines k (lineReply lines k) (.turn :: more)) =
        exec .dlPoll (lineRequested s lines k (lineReply lines k) more) :=
      step_turn (p := .awaitingReply) (upcoming_scheduled rfl) rfl h.mode rfl rfl
    _ = _ := exec_dlPoll_of_ok rfl (decReply_lineReply h hk) hl
    _ = _ := by
      simp [linesIn, lineRequested, counted, sentRequests, hcount, hseq, hlog, BitVec.ofNat_add]⟩

/-- The round of line `k + 1`. -/
theorem run_repliedTurns (hk : k < lines.length) (m : Nat) :
    ∃ valid, Sys2Proof.core.run (m + 3) (linesIn s lines k (repliedTurns lines k ++ more)) =
      Sys2Proof.core.run m (linesIn (counted s lines (k + 1) valid) lines (k + 1) more) := by
  obtain ⟨valid, hpoll⟩ := step_lineRequested_poll h hk (more := more)
  exact ⟨valid, calc
    _ = Sys2Proof.core.run (m + 2) _ := run_next (M := Sys2Proof.core) (step_linesIn h hk) _
    _ = Sys2Proof.core.run (m + 1) _ := run_next (M := Sys2Proof.core) (step_lineRequested_reply h hk) _
    _ = _ := run_next (M := Sys2Proof.core) hpoll _⟩

/-- From `k` lines in LOG, with `i + 1` ahead, to DONE. -/
theorem run_to_linesIn_all {i : Nat} (hn : k + (i + 1) = lines.length) (m : Nat) :
    ∃ valid,
      Sys2Proof.core.run (m + 3 * (i + 1))
          (linesIn s lines k ((List.range' k (i + 1)).flatMap (repliedTurns lines) ++ more)) =
        Sys2Proof.core.run m (linesIn (counted s lines lines.length valid) lines lines.length more) := by
  induction i generalizing k s with
  | zero =>
    rw [← hn, List.range'_one, List.flatMap_singleton]
    exact run_repliedTurns h (by omega) m
  | succ i ih =>
    obtain ⟨valid, hround⟩ := run_repliedTurns h (k := k) (by omega) (m + 3 * (i + 1))
      (more := (List.range' (k + 1) (i + 1)).flatMap (repliedTurns lines) ++ more)
    obtain ⟨valid', hrest⟩ := ih (k := k + 1) (h.counted (k + 1) valid) (by omega)
    refine ⟨valid', Eq.trans ?_ (hround.trans hrest)⟩
    rw [List.range'_succ, List.flatMap_cons, List.append_assoc]
    rfl

end

/-- Settles O60: the rounds of the lines lead to DONE, where the last turn writes the marker and the Close. -/
theorem downloadCompletesWithPromptReplies : Obligations.DownloadCompletesWithPromptReplies := by
  intro s lines rest hp hm hseq hpos hle hfit htext hcan hch hcap hrxb hlog ha
  obtain ⟨i, hi⟩ : ∃ i, lines.length = i + 1 := ⟨lines.length - 1, by omega⟩
  have hcount : (lineCount lines).toNat = lines.length := Nat.mod_eq_of_lt (by omega)
  have h : PromptDownload s lines :=
    ⟨hm, hcan, hch, hcap, hle, hfit, fun hc => BitVec.eq_of_toNat_eq ((htext hc).trans hcount.symm)⟩
  have hstart : s = linesIn s lines 0
      ((List.range' 0 lines.length).flatMap (repliedTurns lines) ++ .turn :: rest) := by
    rw [promptReplies_eq, List.append_assoc] at ha
    cases s
    simp_all [linesIn, sentRequests]
  obtain ⟨valid, hrun⟩ := run_to_linesIn_all h (k := 0) (i := i) (more := .turn :: rest) (by omega) 1
  rw [← hi, ← hstart] at hrun
  have hdone :=
    calc
      step (linesIn (counted s lines lines.length valid) lines lines.length (.turn :: rest)) =
          exec .dlDone (linesIn (counted s lines lines.length valid) lines lines.length rest) :=
        step_turn (p := .done) (upcoming_scheduled rfl) (if_neg (lt_irrefl _)) hm rfl rfl
      _ = _ := exec_dlDone_of_ok (if_neg (lt_irrefl _)) hm hch
  rw [Nat.add_comm (3 * lines.length) 1]
  refine ⟨_, hrun.trans (run_next (M := Sys2Proof.core) hdone 0), rfl,
    prog_of_le (total := lineCount lines) le_rfl, ?_, List.take_length, rfl, rfl, rfl⟩
  exact (congrArg BitVec.toNat (if_neg (lt_irrefl _))).trans hcount

end Sys2Proof.Machine
end

section
/-! PROOFS. The host's commands (R263 to R268, R271): each is refused where its rule says so, and otherwise does
what it says; a session that begins sets its registers and sends its trigger (R201, R231). -/

namespace Sys2Proof.Machine

open Sys2Proof.Claims

/-- The states the model's test calls active are the statements' (R29). -/
theorem phaseActive_iff (s : State) : phaseActive s.phase = true ↔ active s := by
  cases h : s.phase <;> simp [phaseActive, active, h]

/-! ### NOP and the reserved words (R263, R271) -/

theorem decode_reservedWord {w : Word} (h : reservedWord w) :
    decode (.hostWrite 0 w.toNat) = .ok (.cmdReserved w) := by
  obtain ⟨-, hwords, -, -⟩ := everyCommandWordHasOneMeaning
  obtain ⟨-, -, -, hreserved⟩ := hwords w
  exact hreserved h

theorem exec_cmdReserved (w : Word) (s : State) : exec (.cmdReserved w) s = .next (refuse s) := rfl

/-- Settles O31. -/
theorem nopDoesNothingAndReservedWordsAreRefused : Obligations.NopDoesNothingAndReservedWordsAreRefused :=
  fun s => ⟨rfl, fun w hw => ⟨decode_reservedWord hw, exec_cmdReserved w s⟩⟩

/-! ### START_UL (R201, R264) -/

section
variable {s : State}

theorem exec_startUl_refused (h : s.phase ≠ .idle ∨ s.total = 0) : exec .startUl s = .next (refuse s) := by
  apply congrArg Host.Outcome.next
  by_cases hp : s.phase = .idle
  · have ht : s.total = 0 := h.resolve_left (not_not.mpr hp)
    rw [cmdStartUl, if_neg (not_not.mpr hp), if_pos ht]
  · exact if_pos hp

theorem exec_startUl_accepted (hp : s.phase = .idle) (ht : s.total ≠ 0) :
    exec .startUl s = exec .ulStart s := by
  apply congrArg Host.Outcome.next
  rw [cmdStartUl, if_neg (not_not.mpr hp), if_neg ht]

end

/-- UL_START writes the trigger byte B0 (R102, R201). -/
theorem exec_ulStart_eq (s : State) :
    exec .ulStart s =
      .next (writeOrFail [b0 s.trig] (fun t => { t with phase := .sending }) (openUpload s)) := by
  rw [← encTrigUl_eq]
  rfl

/-- Settles O32: UL_START and an accepted START_UL are the same write, taken by the channel or not. -/
theorem startUploadOpensTheSession : Obligations.StartUploadOpensTheSession := by
  intro s
  refine ⟨exec_startUl_refused, fun i hi => ?_⟩
  have hstart : exec i s = exec .ulStart s := by
    rcases hi with rfl | ⟨rfl, hp, ht⟩
    · rfl
    · exact exec_startUl_accepted hp ht
  rw [hstart, exec_ulStart_eq]
  exact ⟨fun hch => congrArg _ (writeOrFail_of_ok _ _ hch),
    fun k hch => congrArg _ (writeOrFail_of_err _ _ hch)⟩

/-! ### START_DL (R231, R265) -/

section
variable {s : State} {q : Bool} {c : CountSrc}

theorem exec_startDl_refused (h : s.phase ≠ .idle ∨ (c = .text ∧ s.total = 0)) :
    exec (.startDl q c) s = .next (refuse s) := by
  apply congrArg Host.Outcome.next
  by_cases hp : s.phase = .idle
  · have ht : c = .text ∧ s.total = 0 := h.resolve_left (not_not.mpr hp)
    rw [cmdStartDl, if_neg (not_not.mpr hp), if_pos ht]
  · exact if_pos hp

theorem exec_startDl_accepted (hp : s.phase = .idle) (ht : c = .text → s.total ≠ 0) :
    exec (.startDl q c) s = exec (.dlStart q c) s := by
  apply congrArg Host.Outcome.next
  rw [cmdStartDl, if_neg (not_not.mpr hp), if_neg (not_and.mpr ht)]

end

theorem exec_dlStart_text (q : Bool) (s : State) :
    exec (.dlStart q .text) s =
      .next { openDownload q .text s with totalValid := true, phase := .requesting } := rfl

/-- DL_START that learns the count from the replies writes the trigger (R102, R231). -/
theorem exec_dlStart_field (q : Bool) (s : State) :
    exec (.dlStart q .field) s =
      .next (writeOrFail (downloadTrigger s.trig) (fun t => { t with phase := .requesting })
        { openDownload q .field s with total := 0, totalValid := false }) := by
  rw [← encTrigDl_eq]
  rfl

/-- Settles O33: DL_START and an accepted START_DL are the same; TEXT sends nothing, FIELD sends the trigger,
which the channel takes or not. -/
theorem startDownloadOpensTheSession : Obligations.StartDownloadOpensTheSession := by
  intro q c s
  refine ⟨exec_startDl_refused, fun i hi => ?_⟩
  have hstart : exec i s = exec (.dlStart q c) s := by
    rcases hi with rfl | ⟨rfl, hp, ht⟩
    · rfl
    · exact exec_startDl_accepted hp ht
  rw [hstart]
  refine ⟨?_, ?_⟩ <;> rintro rfl
  · exact exec_dlStart_text q s
  · rw [exec_dlStart_field]
    exact ⟨fun hch => congrArg _ (writeOrFail_of_ok _ _ hch),
      fun k hch => congrArg _ (writeOrFail_of_err _ _ hch)⟩

/-! ### CANCEL, ABORT_PROTO and CLEAR (R266 to R268) -/

section
variable {s : State}

theorem exec_cancel_of_active (h : active s) : exec .cancel s = .next { s with cancelPend := true } :=
  congrArg Host.Outcome.next (if_pos ((phaseActive_iff s).mpr h))

theorem exec_cancel_of_not_active (h : ¬ active s) : exec .cancel s = .next s :=
  congrArg Host.Outcome.next (if_neg (mt (phaseActive_iff s).mp h))

theorem exec_abortProto_of_idle (h : s.phase = .idle) :
    exec .abortProto s = .next (fail .protocolError s) :=
  congrArg Host.Outcome.next (if_neg (not_not.mpr h))

theorem exec_abortProto_of_not_idle (h : s.phase ≠ .idle) : exec .abortProto s = .next (refuse s) :=
  congrArg Host.Outcome.next (if_pos h)

theorem exec_clear_of_active (h : active s) : exec .clear s = .next (refuse s) :=
  congrArg Host.Outcome.next (if_pos ((phaseActive_iff s).mpr h))

theorem exec_clear_of_not_active (h : ¬ active s) : exec .clear s = .next (clearSession s) :=
  congrArg Host.Outcome.next (if_neg (mt (phaseActive_iff s).mp h))

end

/-- Settles O34: each command tests STATE once. -/
theorem cancelAndAbortProtoFollowTheirRules : Obligations.CancelAndAbortProtoFollowTheirRules :=
  fun _ => ⟨exec_cancel_of_active, exec_cancel_of_not_active, exec_abortProto_of_idle,
    exec_abortProto_of_not_idle⟩

/-- Settles O35: outside a session it is the reset of the session's registers. -/
theorem clearDiscardsAFinishedSession : Obligations.ClearDiscardsAFinishedSession :=
  fun _ => ⟨exec_clear_of_active, exec_clear_of_not_active⟩

end Sys2Proof.Machine
end

section
/-! PROOFS. The host's registers: what a read returns (R261), what a write does or that it is refused (R262, R270,
R274, R275), the checksum port (R269, R270), and the progress function (R272). -/

namespace Sys2Proof.Machine

open Sys2Proof.Claims

/-! ### Progress (R272) -/

theorem exec_prog (seq total : Word) (s : State) :
    exec (.prog seq total) s = .next { s with ret := .percent (prog seq total) } := rfl

/-- Settles O17: the percentage is at most 100, so the seven bits hold it (`prog_toNat`). -/
theorem progressFunctionTruncatesAndClamps : Obligations.ProgressFunctionTruncatesAndClamps :=
  fun seq total s => ⟨prog seq total, exec_prog seq total s, prog_toNat seq total⟩

/-! ### Register reads (R261) -/

theorem lastErrCode_toNat (e : Option FrameError) : (lastErrCode e).toNat = errorNumber e := by
  rcases e with _ | ⟨_ | _ | _ | _ | _⟩ <;> rfl

/-- Settles O25: a register narrower than 17 bits is read as the number it holds. -/
theorem registerReadsReturnTheirRegister : Obligations.RegisterReadsReturnTheirRegister := by
  intro n s
  refine ⟨readReg n s, exec_rdreg s, ?_, ?_, ?_, ?_, ?_, ?_, ?_, ?_, fun hn => ?_⟩
  · rintro rfl
    rfl
  · rintro rfl
    exact statusFields_statusWord s
  · rintro rfl
    exact BitVec.toNat_setWidth_of_le (by decide)
  · rintro rfl
    exact BitVec.toNat_setWidth_of_le (by decide)
  · rintro rfl
    exact BitVec.toNat_setWidth_of_le (by decide)
  · rintro rfl
    exact (BitVec.toNat_setWidth_of_le (by decide)).trans (lastErrCode_toNat s.lastErr)
  · rintro rfl
    rfl
  · rintro rfl
    exact BitVec.toNat_setWidth_of_le (by decide)
  · rcases hn.eq_or_lt with rfl | hn
    · rfl
    · exact readReg_of_reserved s hn

/-! ### Writes of TOTAL and TRIG (R274, R275) -/

section
variable {s : State}

theorem exec_wrregTotal_of_idle (v : Word) (h : s.phase = .idle) :
    exec (.wrregTotal v) s = .next { s with total := v } := by
  apply congrArg Host.Outcome.next
  have hv : ¬ 0xFFFF < v.toNat := Nat.not_lt.mpr (Nat.le_of_lt_succ v.isLt)
  rw [writeTotal, if_neg hv, if_pos h, BitVec.ofNat_toNat, BitVec.setWidth_eq]

theorem exec_wrregTotal_of_not_idle (v : Word) (h : s.phase ≠ .idle) :
    exec (.wrregTotal v) s = .next (refuse s) := by
  apply congrArg Host.Outcome.next
  rw [writeTotal, if_neg h, ite_self]

theorem exec_wrregTrig_of_idle (v : TrigWord) (h : s.phase = .idle) :
    exec (.wrregTrig v) s = .next { s with trig := v } := by
  apply congrArg Host.Outcome.next
  have hv : ¬ 0x1FFFF < v.toNat := Nat.not_lt.mpr (Nat.le_of_lt_succ v.isLt)
  rw [writeTrig, if_neg hv, if_pos h, BitVec.ofNat_toNat, BitVec.setWidth_eq]

theorem exec_wrregTrig_of_not_idle (v : TrigWord) (h : s.phase ≠ .idle) :
    exec (.wrregTrig v) s = .next (refuse s) := by
  apply congrArg Host.Outcome.next
  rw [writeTrig, if_neg h, ite_self]

end

/-- A value wider than its register is refused (R110). -/
theorem exec_wrreg_of_wide {n v : Nat} (s : State)
    (h : (n = 0 ∧ 2 ^ 16 ≤ v) ∨ (n = 3 ∧ 2 ^ 16 ≤ v) ∨ (n = 6 ∧ 2 ^ 17 ≤ v) ∨ (n = 8 ∧ 2 ^ 8 ≤ v)) :
    exec (.wrreg n v) s = .next (refuse s) :=
  (reservedNumbersAndWideValues s n v).2 h

/-- Settles O29. -/
theorem totalIsWrittenOnlyInIdle : Obligations.TotalIsWrittenOnlyInIdle :=
  fun v s => ⟨exec_wrregTotal_of_idle v, exec_wrregTotal_of_not_idle v,
    fun _ hwide => exec_wrreg_of_wide s (.inr (.inl ⟨rfl, hwide⟩))⟩

/-- Settles O30. -/
theorem trigIsWrittenOnlyInIdle : Obligations.TrigIsWrittenOnlyInIdle :=
  fun v s => ⟨exec_wrregTrig_of_idle v, exec_wrregTrig_of_not_idle v,
    fun _ hwide => exec_wrreg_of_wide s (.inr (.inr (.inl ⟨rfl, hwide⟩)))⟩

/-! ### Every register write (R262) -/

/-- WRREG means the operation its access decodes to. -/
theorem exec_wrreg_of_decode {n v : Nat} {i : Instr} (s : State) (h : decode (.hostWrite n v) = .ok i) :
    exec (.wrreg n v) s = exec i s := by
  have hi : decodeWrite n v = i := Decoded.ok.inj h
  rw [← exec_decodeWrite, hi]

/-- The numbers that name no register the host can write (R262). -/
theorem exec_wrreg_of_readOnly {n : Nat} (v : Nat) (s : State)
    (h : n = 1 ∨ n = 2 ∨ n = 4 ∨ n = 5 ∨ n = 7 ∨ 9 ≤ n) : exec (.wrreg n v) s = .next (refuse s) := by
  rcases h with rfl | rfl | rfl | rfl | rfl | h
  · rfl
  · rfl
  · rfl
  · rfl
  · rfl
  · rw [exec_wrreg, writeReg_of_reserved s h]

/-- Settles O27: the command words by what they decode to, the writes of TOTAL, TRIG and CRC_DATA are WRREG of their
register by definition, and every other number is refused. -/
theorem registerWritesFollowTheirRegister : Obligations.RegisterWritesFollowTheirRegister := by
  intro s
  obtain ⟨⟨hnop, hup, hdown, hdownCrc, hdownText, hdownBoth, hcancel, habort, hclear, hcrc⟩, -, -, -⟩ :=
    everyCommandWordHasOneMeaning
  refine ⟨exec_wrreg_of_decode s hnop, exec_wrreg_of_decode s hup, exec_wrreg_of_decode s hdown,
    exec_wrreg_of_decode s hdownCrc, exec_wrreg_of_decode s hdownText, exec_wrreg_of_decode s hdownBoth,
    exec_wrreg_of_decode s hcancel, exec_wrreg_of_decode s habort, exec_wrreg_of_decode s hclear,
    exec_wrreg_of_decode s hcrc, fun w hw => ?_, fun w i => exec_wrreg_of_decode s,
    fun v => (exec_wrregTotal s v).symm, fun v hp => ?_, fun v => (exec_wrregTrig s v).symm,
    fun b => (exec_crcPush s b).symm, fun n v => exec_wrreg_of_readOnly v s⟩
  · calc
      exec (.wrreg 0 w.toNat) s = exec (.cmdReserved w) s := exec_wrreg_of_decode s (decode_reservedWord hw)
      _ = .next (refuse s) := exec_cmdReserved w s
  · rw [← exec_wrregTotal, exec_wrregTotal_of_idle v hp]

/-! ### The checksum port (R269, R270) -/

section
variable {s : State}

theorem exec_crcClr_of_active (h : active s) : exec .crcClr s = .next (refuse s) :=
  congrArg Host.Outcome.next (if_pos ((phaseActive_iff s).mpr h))

theorem exec_crcClr_of_not_active (h : ¬ active s) : exec .crcClr s = .next { s with crcAcc := 0 } :=
  congrArg Host.Outcome.next (if_neg (mt (phaseActive_iff s).mp h))

theorem exec_crcPush_of_active (b : Byte) (h : active s) : exec (.crcPush b) s = .next (refuse s) := by
  apply congrArg Host.Outcome.next
  rw [writeCrcData, if_pos ((phaseActive_iff s).mpr h), ite_self]

theorem exec_crcPush_of_not_active (b : Byte) (h : ¬ active s) :
    exec (.crcPush b) s = .next { s with crcAcc := crcUpd s.crcAcc b } := by
  apply congrArg Host.Outcome.next
  have hb : ¬ 0xFF < b.toNat := Nat.not_lt.mpr (Nat.le_of_lt_succ b.isLt)
  rw [writeCrcData, if_neg hb, if_neg (mt (phaseActive_iff s).mp h), BitVec.ofNat_toNat, BitVec.setWidth_eq]

theorem execAll_cons_of_next {i : Instr} {t : State} (is : List Instr) (h : exec i s = .next t) :
    execAll (i :: is) s = execAll is t := by
  rw [execAll, h]

/-- Outside a session pushed bytes are folded into CRCACC, one after the other. -/
theorem execAll_crcPush_append (bs : Bytes) (is : List Instr) (acc : Word) (h : ¬ active s) :
    execAll (bs.map .crcPush ++ is) { s with crcAcc := acc } =
      execAll is { s with crcAcc := bs.foldl crcUpd acc } := by
  induction bs generalizing acc with
  | nil => rfl
  | cons b bs ih =>
    calc
      execAll ((b :: bs).map .crcPush ++ is) { s with crcAcc := acc } =
          execAll (bs.map .crcPush ++ is) { s with crcAcc := crcUpd acc b } :=
        execAll_cons_of_next _ (exec_crcPush_of_not_active (s := { s with crcAcc := acc }) b h)
      _ = execAll is { s with crcAcc := (b :: bs).foldl crcUpd acc } := ih (crcUpd acc b)

/-- A cleared port into which a sequence is pushed reads as its checksum (R270). -/
theorem execAll_crcPort (bs : Bytes) (h : ¬ active s) :
    execAll ([.crcClr] ++ bs.map .crcPush ++ [.rdreg 7]) s =
      .next { s with crcAcc := crc16 bs, ret := .reg ((crc16 bs).setWidth 17) } :=
  calc
    _ = execAll (bs.map .crcPush ++ [.rdreg 7]) { s with crcAcc := 0 } :=
      execAll_cons_of_next _ (exec_crcClr_of_not_active h)
    _ = execAll [.rdreg 7] { s with crcAcc := crc16 bs } := execAll_crcPush_append bs _ 0 h
    _ = _ := execAll_cons_of_next _ (exec_rdreg _)

end

/-- Settles O7: CRC_CLR and CRC_PUSH test STATE, and the pushes after a clear are the fold of CRC16. -/
theorem crcPortFollowsItsRules : Obligations.CrcPortFollowsItsRules :=
  fun s => ⟨fun h => ⟨exec_crcClr_of_active h, fun b => exec_crcPush_of_active b h⟩,
    fun h => ⟨exec_crcClr_of_not_active h, fun b => exec_crcPush_of_not_active b h,
      fun bs => execAll_crcPort bs h⟩,
    fun _ hwide => exec_wrreg_of_wide s (.inr (.inr (.inr ⟨rfl, hwide⟩)))⟩

end Sys2Proof.Machine
end

section
/-! PROOFS. The entry to FAILED (R305), and what leaves FAILED and TERMINATED (R307). -/

namespace Sys2Proof.Machine

open Sys2Proof.Claims

/-- Settles O21: the record update of `fail` is the statement's, by definition. -/
theorem failEntersFailedAndKeepsTheRest : Obligations.FailEntersFailedAndKeepsTheRest :=
  fun _ _ => rfl

/-- A quiet move is none of the session's, so it keeps STATE. -/
theorem Quiet.phase_eq {s t : State} (q : Quiet s t) : t.phase = s.phase := by
  cases q
  rfl

/-- After the session's end a move keeps STATE or is one of the two resets: every other move asks for IDLE
or for an active session (R307). -/
theorem Move.phase_of_ended {e : Event} {s t : State} (hs : s.ended) (m : Move e s t) :
    t.phase = s.phase ∨
      (t.phase = .idle ∧ (e = .hwReset ∨ e = .access (.hostWrite 0 0x0005))) := by
  cases m with
  | quiet q => exact .inl q.phase_eq
  | clear he => exact .inr ⟨rfl, .inr he⟩
  | hwReset he => exact .inr ⟨rfl, .inl he⟩
  | cancel | writeTotal => exact .inl rfl
  | startUl _ hp | startDl _ hp | abortProto hp => simp [State.ended, hp] at hs
  | ulSend hp | ulPoll _ hp | ulDone hp | dlReq hp | dlPoll _ hp | dlDone hp =>
    simp [State.ended, hp] at hs

/-- Settles O54: taking the event keeps STATE, and `Move.phase_of_ended` says which moves change it. -/
theorem terminalStatesAreLeftOnlyByClearOrReset : Obligations.TerminalStatesAreLeftOnlyByClearOrReset := by
  intro s t hs h hne
  obtain ⟨e, agenda, standing, hu, m⟩ := step_move h
  have hended : State.ended { s with agenda := agenda, standing := standing } := hs
  obtain ⟨hidle, he⟩ := (m.phase_of_ended hended).resolve_left hne
  refine ⟨hidle, he.imp ?_ ?_⟩ <;> rintro rfl <;> exact ⟨_, hu⟩

end Sys2Proof.Machine
end
